-- ==== Sys2Proof/Word.lean ====
section
/-! DEFINITION. The word types of the controller (00_scope.md R8): all values are unsigned, bit 0 is
the least significant bit. -/

namespace Sys2Proof

/-- A DataByte, "an 8-bit unsigned value, the unit of transfer in both directions" (R60, R62). -/
abbrev Byte := BitVec 8

/-- An address operand: 16 bits, every value accepted (30_encoding.md R95; 90_conflicts.md C3). -/
abbrev Addr := BitVec 16

/-- A cell number of the EEPROM: what the 15 address pins carry (20_memory.md R60, R61). -/
abbrev CellAddr := BitVec 15

/-- A command word of format C (30_encoding.md R91). -/
abbrev Command := BitVec 27

/-- The level of one line: `false` is 0 (low), `true` is 1 (high). The names of the active-low control
lines end in `N`, so `ceN = false` means that chip-enable is asserted (00_scope.md R9). -/
abbrev Level := Bool

end Sys2Proof
end

