-- ==== Sys2Proof/Config.lean ====
section
/-! DEFINITION. The parameters of 00_scope.md R7, and the free values of R13 (`draw`). -/

namespace Sys2Proof

namespace Config

/-- `ADDR_BITS` of R7: address pins of the chip (structural, D17). -/
def addrBits : Nat := 15

/-- `MAX_ADDR` of R7: the highest cell number. -/
def maxAddr : Nat := 32767

/-- `SHIFT_BITS` of R7: bits shifted out per latch (structural, D17). -/
def shiftBits : Nat := 16

/-- `DATA_BITS` of R7: width of the data bus (structural, D17). -/
def dataBits : Nat := 8

/-- `T_SHIFT` of R7: there is no wait inside the shift-out (D18), so no rule reads this. -/
def tShift : Nat := 0

/-- `T_WC` of R7, OPEN (D14): the chip's write-cycle time, a value nobody knows. No rule of the
idealised chip reads it; waiting it out is HOST's duty (70_reset_and_hazards.md R247). -/
opaque tWc : Nat

/-- `PINMAP` of R7, OPEN (N17): which physical pin carries which of the 14 signals. No rule reads it. -/
opaque pinMap : Fin 14 → Nat

/-- `draw(8)` of R13: the free byte of the k-th evaluation. It has no body, so nothing can be proved
of a value of it; a step takes number `State.draws` and advances that counter, so that each evaluation
is a fresh draw (20_memory.md R71). Assumption log 2. -/
opaque freeByte : Nat → Byte

end Config

/-- The parameters of R7 that a run may be given another value of (R6: "A model takes the parameters
as a configuration record"). The defaults are the document's literals. The three times are in
microseconds and are lower bounds. -/
structure Params where
  /-- `T_OE_VALID`: the wait between asserting output-enable and sampling. -/
  tOeValid : Nat := 2
  /-- `T_SETTLE`: every other settle wait of both transactions. -/
  tSettle : Nat := 1
  /-- `T_WP`: the hold after the byte is driven, before write-enable is released. -/
  tWp : Nat := 5
  /-- `OE_REASSERT_AFTER_WRITE`: whether write step 10 is performed (D12; 90_conflicts.md C1). -/
  oeReassert : Bool := true
  /-- `CHIP_PRESENT`: whether a chip answers on the bus (20_memory.md R74). -/
  chipPresent : Bool := true
  /-- `CHIP_COMMITS`: whether the chip commits a write pulse (20_memory.md R75). -/
  chipCommits : Bool := true
  /-- `ERASED`: what a never-written cell holds (the fixture's value, U11). -/
  erased : Byte := 0xFF#8
  deriving DecidableEq, Repr

/-- R6: "any larger value is legal and no smaller value is". -/
def Params.legal (p : Params) : Bool :=
  decide (2 ≤ p.tOeValid) && decide (1 ≤ p.tSettle) && decide (5 ≤ p.tWp)

end Sys2Proof
end

