-- ==== Sys2Proof/Machine/State.lean ====
section
/-! DEFINITION. Everything the spec gives the machine (10_state.md R20, R41; 20_memory.md R60), as plain
data, and the state after power-up (R42). -/

namespace Sys2Proof.Machine

/-- BusDirectionState, "enum {INPUT, OUTPUT}" (R30): all eight data lines listen, or all eight drive. -/
inductive Dir where
  | input
  | output
  deriving DecidableEq, Repr

/-- The output pins of the event alphabet (00_scope.md R12, R16): the three shift-register pins, the
three active-low control lines and the eight data lines. -/
inductive Pin where
  | rclk
  | srclk
  | ser
  | ceN
  | oeN
  | weN
  | d (i : Fin 8)
  deriving DecidableEq, Repr

/-- One event of the trace (00_scope.md R12). -/
inductive Event where
  /-- `Pin(P, v)`: output pin `p` written with level `v`. -/
  | pin (p : Pin) (v : Level)
  /-- `Dir(d)`: all eight data lines switched to `d`. -/
  | dir (d : Dir)
  /-- `Sample(i, v)`: data line `D_i` sampled, level `v` seen. -/
  | sample (i : Fin 8) (v : Level)
  /-- `Wait(n)`: at least `n` microseconds requested. -/
  | wait (n : Nat)
  deriving DecidableEq, Repr

/-- The position of the sequencer (R34): `IDLE`, `INI`, `RD(1)` to `RD(6)`, `WR(1)` to `WR(10)`. -/
inductive Seq where
  | idle
  | ini
  | rd1 | rd2 | rd3 | rd4 | rd5 | rd6
  | wr1 | wr2 | wr3 | wr4 | wr5 | wr6 | wr7 | wr8 | wr9 | wr10
  deriving DecidableEq, Repr

/-- Who issues a word: HOST at the command port (30_encoding.md R90), or the sequencer calling a
sub-operation (R98). -/
inductive Issuer where
  | host
  | sequencer
  deriving DecidableEq, Repr

/-- One move: a 27-bit word and who issues it (assumption log 6). -/
structure Move where
  issuer : Issuer
  word : Command
  deriving DecidableEq, Repr

/-- The names of the `fault` verdicts (60_exceptions.md R202), as the sticky FAULT mark keeps them. -/
inductive Verdict where
  /-- `BusContention` (20_memory.md R71). -/
  | busContention
  /-- `DriveWhileInput` (41_data_bus.md R146). -/
  | driveWhileInput
  /-- `SampleWhileOutput` (41_data_bus.md R149). -/
  | sampleWhileOutput
  /-- `OeWeOverlap` (10_state.md R32). -/
  | oeWeOverlap
  deriving DecidableEq, Repr

/-- The `refuse` verdicts of 60_exceptions.md R202, and three of the model's own. All are safe. -/
inductive Refusal where
  /-- An instruction without a meaning yet, rejected by name in `exec`. Raised nowhere: every
  instruction has its meaning. Safe. -/
  | notModelled (mnemonic : String)
  /-- A word with `op = 011` (30_encoding.md R97). Raised by `step`. Safe. -/
  | reservedOp
  /-- A HOST word that names a sub-operation (30_encoding.md R97). Raised by `step`. Safe. -/
  | internalOp
  /-- READ or WRITE before the first INIT (70_reset_and_hazards.md R232). Raised by `execRead` and
  `execWrite`. Safe. -/
  | notInitialised
  /-- A waveform outside the idealised chip (20_memory.md R77). Raised by `act`. Safe. -/
  | unmodelledWaveform
  /-- A command handed over while `SEQ` is not `IDLE`: the model "gives `refuse` and does not step"
  (93_implementation_defined.md U24; the name is the model's). Raised by `accept`. Safe. -/
  | busy
  /-- A sequencer's call whose word is a host command: the sequencer issues only the four internal
  codes (92_eei_decisions.md D4; the name is the model's). Raised by `step`. Safe. -/
  | notInternal
  deriving DecidableEq, Repr

/-- The EEPROM array as the list of its cells that differ from an erased one, by rising address. -/
abbrev Memory := List Host.Cell

/-- The whole state. The first fourteen fields are CORE's (R20), `mem` is CHIP's (20_memory.md R60),
`trace`, `faultMark` and `inited` are the model's bookkeeping (R41), `params` is the configuration
(assumption log 4), `port` and `draws` are the model's own (assumption logs 2, 5 and 6). -/
structure State where
  /-- `SR`, the shift stage of the two cascaded registers (R21). -/
  sr : Addr
  /-- `AL`, the output stage, whose low 15 bits are the address pins (R22). -/
  al : Addr
  /-- `DOUT`, what the data lines drive while `DIR = OUTPUT` (R28). -/
  dout : Byte
  /-- `RDATA`, the byte assembled by the last SAMPLE (R29). -/
  rdata : Byte
  /-- `CMD_ADDR`, the address operand of the command in flight (R43). -/
  cmdAddr : Addr
  /-- `CMD_DATA`, the data operand of the command in flight (R43). -/
  cmdData : Byte
  /-- `RCLK`, the register-clock pin (R23). -/
  rclk : Level
  /-- `SRCLK`, the shift-clock pin (R23). -/
  srclk : Level
  /-- `SER`, the serial-data pin (R23). -/
  ser : Level
  /-- `CE_n`, the chip-enable pin (R31). -/
  ceN : Level
  /-- `OE_n`, the output-enable pin (R31). -/
  oeN : Level
  /-- `WE_n`, the write-enable pin (R31). -/
  weN : Level
  /-- `DIR`, the direction of the data lines (R30). -/
  dir : Dir
  /-- `SEQ`, the position of the sequencer (R34). -/
  seq : Seq
  /-- `MEM`, the array of CHIP (20_memory.md R60). -/
  mem : Memory
  /-- `TRACE`, the write trace, oldest event first (R41; 00_scope.md R12). -/
  trace : List Event
  /-- `FAULT`, the sticky mark, with the verdict that set it (R41). -/
  faultMark : Option Verdict
  /-- `INITED`, set by INIT and never cleared (R41). -/
  inited : Bool
  /-- The moves still to be taken, the next one first (60_exceptions.md R208). -/
  port : List Move
  /-- How many free values have been taken (00_scope.md R13). -/
  draws : Nat
  /-- The parameters of this run (00_scope.md R6, R7; 10_state.md R44). -/
  params : Params
  deriving DecidableEq, Repr

/-- The machine at power-up, before INIT (R42): `SEQ = IDLE`, `INITED` and `FAULT` false, every cell
erased. The other levels and registers are unspecified there; the values below are the model's (DESIGN
CHOICE, assumption log 1): de-asserted control lines, the bus at INPUT, all else zero. -/
def State.reset : State where
  sr := 0#16
  al := 0#16
  dout := 0#8
  rdata := 0#8
  cmdAddr := 0#16
  cmdData := 0#8
  rclk := false
  srclk := false
  ser := false
  ceN := true
  oeN := true
  weN := true
  dir := .input
  seq := .idle
  mem := []
  trace := []
  faultMark := none
  inited := false
  port := []
  draws := 0
  params := {}

/-- The outcomes of the `fault` verdicts of 60_exceptions.md R202. Each carries the state the fault leaves,
with the FAULT mark set (R41). The hardware notices none of these (R200); each is raised by the model
where the spec gives the later state no meaning, so stopping is safe. `step` answers the same fault again
from the state it left. -/
inductive Fault where
  /-- CORE and CHIP both drive the data lines (20_memory.md R71). Raised by `act`. Safe. -/
  | busContention (left : State)
  /-- DRIVE with `DIR = INPUT` (41_data_bus.md R146). Raised by `drive`. Safe. -/
  | driveWhileInput (left : State)
  /-- SAMPLE with `DIR = OUTPUT` (41_data_bus.md R149). Raised by `sample`. Safe. -/
  | sampleWhileOutput (left : State)
  /-- `OE_n = 0` and `WE_n = 0` at once (10_state.md R32). Raised by `act`. Safe. -/
  | oeWeOverlap (left : State)
  deriving DecidableEq, Repr

/-- The outcome of an operation on the state. -/
abbrev Result := Host.Outcome State Fault Refusal

end Sys2Proof.Machine
end

