-- ==== Sys2Proof/Machine/Memory.lean ====
section
/-! DEFINITION. The EEPROM array as a sparse list in one canonical form: addresses strictly rising and
below 32768, and no entry equal to what an unlisted cell holds, which is `ERASED` (20_memory.md R60;
10_state.md R42; assumption log 3). -/

namespace Sys2Proof.Machine

/-- What an unlisted cell holds: `ERASED` of 00_scope.md R7. -/
def unlisted (p : Params) : Byte := p.erased

/-- The byte at address `a` of a memory whose unlisted cells hold `e`. -/
def Memory.read (e : Byte) : Memory → Nat → Byte
  | [], _ => e
  | (k, v) :: rest, a => if k = a then v else Memory.read e rest a

/-- Put `v` at address `a`, keeping the canonical form: the erased byte is not listed. -/
def Memory.write (e : Byte) : Memory → Nat → Byte → Memory
  | [], a, v => if v = e then [] else [(a, v)]
  | (k, u) :: rest, a, v =>
    if k < a then (k, u) :: Memory.write e rest a v
    else if k = a then (if v = e then rest else (a, v) :: rest)
    else if v = e then (k, u) :: rest else (a, v) :: (k, u) :: rest

/-- The canonical form from address `lo` on. -/
def Memory.wfFrom (e : Byte) : Nat → Memory → Bool
  | _, [] => true
  | lo, (k, v) :: rest =>
    decide (lo ≤ k) && decide (k ≤ Config.maxAddr) && decide (v ≠ e) && Memory.wfFrom e (k + 1) rest

/-- The canonical form: addresses strictly rising, none above `MAX_ADDR`, no entry erased. -/
def Memory.wf (e : Byte) (m : Memory) : Bool := Memory.wfFrom e 0 m

/-- `MemRead(addr, 1)`, the content of one cell (20_memory.md R72). -/
def memRead (s : State) (a : CellAddr) : Byte := Memory.read (unlisted s.params) s.mem a.toNat

/-- `MemWrite(addr, 1, v)`, the store of one byte (20_memory.md R73). -/
def memWrite (a : CellAddr) (v : Byte) (s : State) : State :=
  { s with mem := Memory.write (unlisted s.params) s.mem a.toNat v }

end Sys2Proof.Machine
end

