-- ==== Sys2Proof/Machine/Flags.lean ====
section
/-! DEFINITION. CORE has no condition codes and `DIR` is its only status bit (10_state.md R37), so this
file holds what follows from the levels of the lines: who drives the data lines and what they carry
(20_memory.md R71), and the two states of the lines that must never occur. -/

namespace Sys2Proof.Machine

/-- `A_14..A_0 = AL[14:0]`, at all times (10_state.md R22). -/
def addressPins (s : State) : CellAddr := s.al.extractLsb' 0 15

/-- `chip_drives` of R71. -/
def chipDrives (s : State) : Bool := s.params.chipPresent && !s.ceN && !s.oeN && s.weN

/-- `core_drives` of R71. -/
def coreDrives (s : State) : Bool := decide (s.dir = .output)

/-- Bus contention: both sides drive, whatever the levels (R71). -/
def contention (s : State) : Bool := coreDrives s && chipDrives s

/-- `OE_n = 0 and WE_n = 0`, the state that must never occur (10_state.md R32). -/
def oeWeLow (s : State) : Bool := !s.oeN && !s.weN

/-- The fault verdict of the lines as they stand, if any (R71; 10_state.md R32). The two never hold
together: the chip drives only while `WE_n = 1`. -/
def violation (s : State) : Option Verdict :=
  if oeWeLow s then some .oeWeOverlap else if contention s then some .busContention else none

/-- What the eight data lines carry (R71). -/
inductive BusValue where
  | contended
  | driven (v : Byte)
  | floating
  deriving DecidableEq, Repr

/-- `bus()` of R71. -/
def bus (s : State) : BusValue :=
  if coreDrives s then (if chipDrives s then .contended else .driven s.dout)
  else if chipDrives s then .driven (memRead s (addressPins s)) else .floating

/-- One evaluation of `bus()` as a byte: a floating line has a free level, "each evaluation of `draw(8)`
is a fresh draw" (R71). A contended bus has no value; `act` answers the fault before this is read. -/
def busByte (s : State) : Byte × State :=
  match bus s with
  | .driven v => (v, s)
  | .floating | .contended => (Config.freeByte s.draws, { s with draws := s.draws + 1 })

end Sys2Proof.Machine
end

