-- ==== Sys2Proof/Machine/Operands.lean ====
section
/-! DEFINITION. Every operand form, and the only arithmetic CORE does (40_address_latch.md R120, R127). -/

namespace Sys2Proof.Machine

/-- `cell(a) = a[14:0]`: the cell an address operand reaches (20_memory.md R65, R69; 90_conflicts.md
C5). The one addressing mode is absolute (42_controller.md R185). -/
def cell (a : Addr) : CellAddr := a.extractLsb' 0 15

/-- `low = a[7:0]` (R120). -/
def lowByte (a : Addr) : Byte := a.extractLsb' 0 8

/-- `high = a[15:8]` (R120). -/
def highByte (a : Addr) : Byte := a.extractLsb' 8 8

/-- The Boolean operand of SETDIR, `data[0]`: 1 for OUTPUT (30_encoding.md R93; 41_data_bus.md R141). -/
def dirOperand (data : Byte) : Dir := if data.getLsbD 0 then .output else .input

/-- `SR[14:0] ++ SER`: the shift stage after one shift edge (10_state.md R25). -/
def shiftIn (sr : Addr) (b : Level) : Addr := sr.extractLsb' 0 15 ++ BitVec.ofBool b

/-- Byte `x` with bit `i` made `b`: one data line written or sampled (41_data_bus.md R145, R148). -/
def setBit (x : Byte) (i : Fin 8) (b : Level) : Byte :=
  (x &&& ~~~(1#8 <<< i.val)) ||| ((BitVec.ofBool b).setWidth 8 <<< i.val)

/-- Bit numbers 7 down to 0: most significant bit first (20_memory.md R63). -/
def msbFirst : List (Fin 8) := [7, 6, 5, 4, 3, 2, 1, 0]

/-- Bit numbers 0 up to 7: least significant bit first (20_memory.md R63). -/
def lsbFirst : List (Fin 8) := [0, 1, 2, 3, 4, 5, 6, 7]

end Sys2Proof.Machine
end

