-- ==== Sys2Proof/Machine/Trace.lean ====
section
/-! DEFINITION. What is observed of a run: the write trace, the transition trace and the requested
durations (00_scope.md R12; 92_eei_decisions.md D11), and the levels of the lines at every moment of a
trace. -/

namespace Sys2Proof.Machine

/-- The levels of all lines at one moment. -/
structure Lines where
  rclk : Level
  srclk : Level
  ser : Level
  ceN : Level
  oeN : Level
  weN : Level
  dout : Byte
  dir : Dir
  deriving DecidableEq, Repr

/-- The lines of a state. -/
def State.lines (s : State) : Lines where
  rclk := s.rclk
  srclk := s.srclk
  ser := s.ser
  ceN := s.ceN
  oeN := s.oeN
  weN := s.weN
  dout := s.dout
  dir := s.dir

/-- The level of one output pin. -/
def Lines.level (l : Lines) : Pin → Level
  | .rclk => l.rclk
  | .srclk => l.srclk
  | .ser => l.ser
  | .ceN => l.ceN
  | .oeN => l.oeN
  | .weN => l.weN
  | .d i => l.dout.getLsbD i

/-- The lines after one event: a pin holds the last level written (10_state.md R23, R31). -/
def Lines.after (l : Lines) : Event → Lines
  | .pin .rclk v => { l with rclk := v }
  | .pin .srclk v => { l with srclk := v }
  | .pin .ser v => { l with ser := v }
  | .pin .ceN v => { l with ceN := v }
  | .pin .oeN v => { l with oeN := v }
  | .pin .weN v => { l with weN := v }
  | .pin (.d i) v =>
    { l with dout := (l.dout &&& ~~~(1#8 <<< i.val)) ||| ((BitVec.ofBool v).setWidth 8 <<< i.val) }
  | .dir d => { l with dir := d }
  | .sample _ _ => l
  | .wait _ => l

/-- The lines after a list of events. -/
def Lines.afterAll (l : Lines) (es : List Event) : Lines := es.foldl Lines.after l

/-- The lines at every moment of a list of events: before the first, and after each. -/
def Lines.moments (l : Lines) : List Event → List Lines
  | [] => [l]
  | e :: es => l :: (l.after e).moments es

/-- The transition trace of a write trace that begins at lines `l`: "the write trace without the
`Pin(P, v)` events whose `v` equals the level `P` already had" (R12). -/
def transitions (l : Lines) : List Event → List Event
  | [] => []
  | .pin p v :: es =>
    if l.level p = v then transitions (l.after (.pin p v)) es
    else .pin p v :: transitions (l.after (.pin p v)) es
  | e :: es => e :: transitions (l.after e) es

/-- The least time a list of events takes: only waits carry time (00_scope.md R14), and each is a
lower bound. -/
def leastTime : List Event → Nat
  | [] => 0
  | .wait n :: es => n + leastTime es
  | _ :: es => leastTime es

/-- One event's part in the time since write-enable was last written low. -/
def pulseAfter (t : Nat) : Event → Nat
  | .pin .weN false => 0
  | .wait n => t + n
  | _ => t

/-- The least time since write-enable was last written low. -/
def pulseTime (es : List Event) : Nat := es.foldl pulseAfter 0

end Sys2Proof.Machine
end

