-- ==== Sys2Proof/Machine/Ops.lean ====
section
/-! DEFINITION. The named operations over the pins, the bus and the sequencer (00_scope.md R10). One
`Action` makes one event of the trace (R12). CORE raises no exception, so there is no exception entry to
share and no return from one (60_exceptions.md R200, R205, R206): the only return is `SEQ <- IDLE`
(`returnIdle`). What every `fault` verdict of R202 shares is `raise`. -/

namespace Sys2Proof.Machine

/-- The outcome of a verdict that leaves the state `left`. -/
def Verdict.fault (v : Verdict) (left : State) : Fault :=
  match v with
  | .busContention => .busContention left
  | .driveWhileInput => .driveWhileInput left
  | .sampleWhileOutput => .sampleWhileOutput left
  | .oeWeOverlap => .oeWeOverlap left

/-- The verdict of a fault. -/
def Fault.verdict : Fault → Verdict
  | .busContention _ => .busContention
  | .driveWhileInput _ => .driveWhileInput
  | .sampleWhileOutput _ => .sampleWhileOutput
  | .oeWeOverlap _ => .oeWeOverlap

/-- The state a fault leaves. -/
def Fault.left : Fault → State
  | .busContention s | .driveWhileInput s | .sampleWhileOutput s | .oeWeOverlap s => s

/-- Set the FAULT mark: "a sticky mark set by any `fault` verdict and never cleared" (10_state.md R41). -/
def mark (v : Verdict) (s : State) : State := { s with faultMark := some v }

/-- `fault <Name>` (00_scope.md R10, R13), the one way a fault is raised: the mark is set and the run
stops. -/
def raise (v : Verdict) (s : State) : Result := .fault (v.fault (mark v s))

/-- Run `f` on the next state, or stop where `r` stops. -/
def andThen (r : Result) (f : State → Result) : Result :=
  match r with
  | .next s => f s
  | .fault e => .fault e
  | .refused e => .refused e

/-- Append one event to the write trace (00_scope.md R12). -/
def emit (e : Event) (s : State) : State := { s with trace := s.trace ++ [e] }

/-- The commit: at the end of a write pulse CHIP stores the byte then on the bus (20_memory.md R73), if
it is there (R74) and commits (R75). The byte is the one present at the end of the pulse, not the one
present when write-enable fell (90_conflicts.md C7). -/
def commit (s : State) : State :=
  if s.params.chipPresent && s.params.chipCommits then
    memWrite (addressPins s) (busByte s).1 (busByte s).2
  else s

/-- `pin(P, v)` and `dpin(i, v)` of R10 without the event, with their edge effects: the shift edge
(10_state.md R25), the latch edge (R26) and the commit (20_memory.md R73). A write of an unchanged level
has no edge (R27). -/
def writePin (p : Pin) (v : Level) (s : State) : State :=
  match p with
  | .rclk => { s with al := if !s.rclk && v then s.sr else s.al, rclk := v }
  | .srclk => { s with sr := if !s.srclk && v then shiftIn s.sr s.ser else s.sr, srclk := v }
  | .ser => { s with ser := v }
  | .ceN => { s with ceN := v }
  | .oeN => { s with oeN := v }
  | .weN => { (if !s.weN && v && !s.ceN then commit s else s) with weN := v }
  | .d i => { s with dout := setBit s.dout i v }

/-- The level seen on data line `D_i` now (R10, R71), with what is left of the state. -/
def level (i : Fin 8) (s : State) : Level × State := ((busByte s).1.getLsbD i, (busByte s).2)

/-- One thing the sequencer does to a line, or one wait; each makes one event. -/
inductive Action where
  /-- `pin(P, v)`; on a data line `dpin(i, v)` (R10). -/
  | pin (p : Pin) (v : Level)
  /-- `dirset(d)`: all eight data lines together (R10; 41_data_bus.md R142). -/
  | dirset (d : Dir)
  /-- Sample line `D_i` and assemble it as bit `i` of `RDATA` (41_data_bus.md R148; 10_state.md R29). -/
  | sample (i : Fin 8)
  /-- `wait(n)`: at least `n` microseconds pass (60_exceptions.md R216). -/
  | wait (n : Nat)
  deriving DecidableEq, Repr

/-- What an action does to the state and to the trace. -/
def Action.apply (a : Action) (s : State) : State :=
  match a with
  | .pin p v => emit (.pin p v) (writePin p v s)
  | .dirset d => emit (.dir d) { s with dir := d }
  | .sample i =>
    emit (.sample i (level i s).1) { (level i s).2 with rdata := setBit s.rdata i (level i s).1 }
  | .wait n => emit (.wait n) s

/-- A waveform CHIP has no behaviour for (20_memory.md R77; U25): chip-enable moved while write-enable is
low, the address moved inside a write pulse, or a write pulse shorter than the waits of the write
sequence. -/
def unmodelled (a : Action) (s : State) : Bool :=
  match a with
  | .pin .ceN v => !s.weN && (s.ceN != v)
  | .pin .rclk v => !s.weN && !s.ceN && !s.rclk && v && decide (s.al ≠ s.sr)
  | .pin .weN v =>
    !s.weN && !s.ceN && v && decide (pulseTime s.trace < s.params.tSettle + s.params.tWp)
  | _ => false

/-- One action under the model verdicts of 60_exceptions.md R202: a fault where the lines stand or come
to stand in a state that must never occur, a refusal where the waveform has no meaning. The action that
brings the lines there has happened in the state the fault leaves, its event included (95_test_vectors.md
V-D15). The order of the three judgements is a DESIGN CHOICE (assumption log 16). -/
def act (a : Action) (s : State) : Result :=
  match violation s with
  | some v => raise v s
  | none =>
    if unmodelled a s then .refused .unmodelledWaveform
    else
      match violation (a.apply s) with
      | some v => raise v (a.apply s)
      | none => .next (a.apply s)

/-- Actions in order, one after the other (00_scope.md R14). -/
def run : List Action → State → Result
  | [], s => .next s
  | a :: as, s => andThen (act a s) (run as)

/-- Move the sequencer (R10: "the block's pc <- target"). -/
def goto (q : Seq) (s : State) : Result := .next { s with seq := q }

/-- The return of a command: `SEQ <- IDLE` (10_state.md R36; 30_encoding.md R94). -/
def returnIdle (s : State) : Result := goto .idle s

/-- Acceptance of a command (10_state.md R35; 30_encoding.md R92): only when `SEQ = IDLE`; it loads both
operand registers and sets the first position. A command handed to a busy CORE is refused (U24). -/
def accept (first : Seq) (addr : Addr) (data : Byte) (s : State) : Result :=
  if s.seq = .idle then .next { s with cmdAddr := addr, cmdData := data, seq := first }
  else .refused .busy

/-- READ and WRITE before the first INIT are refused (70_reset_and_hazards.md R232). -/
def needInited (s : State) : Result := if s.inited then .next s else .refused .notInitialised

end Sys2Proof.Machine
end

