-- ==== Sys2Proof/Machine/AddressLatch.lean ====
section
/-! DEFINITION. The address serializer and its sub-operation LATCH (40_address_latch.md). -/

namespace Sys2Proof.Machine

/-- One shift-clock pulse: the bit to `SER`, then `SRCLK` up, then down, with no wait (R122). -/
def shiftPulse (b : Level) : List Action := [.pin .ser b, .pin .srclk true, .pin .srclk false]

/-- `SHIFTOUT8(b)` of R121: most significant bit first. -/
def shiftOut8 (b : Byte) : List Action := msbFirst.flatMap fun (i : Fin 8) => shiftPulse (b.getLsbD i.val)

/-- The 50 actions of `LATCH a` (R121): high byte first, then low byte. -/
def latchActions (a : Addr) : List Action :=
  .pin .rclk false :: (shiftOut8 (highByte a) ++ (shiftOut8 (lowByte a) ++ [.pin .rclk true]))

/-- `LATCH a` (R121), as the sequencer runs it in read step 2 and write step 3. -/
def latch (a : Addr) (s : State) : Result := run (latchActions a) s

/-- LATCH (R121). The operand is `addr`; `data` is ignored (30_encoding.md R93). -/
def execLatch (addr : Addr) (_data : Byte) (s : State) : Result := latch addr s

end Sys2Proof.Machine
end

