-- ==== Sys2Proof/Machine/DataBus.lean ====
section
/-! DEFINITION. The tri-state data-bus controller: SETDIR, DRIVE and SAMPLE (41_data_bus.md). -/

namespace Sys2Proof.Machine

/-- `SETDIR` (R141): one `Dir` event for all eight lines (R142), and nothing at all where the direction
is already `d` (R143). -/
def setDir (d : Dir) (s : State) : Result := if s.dir = d then .next s else act (.dirset d) s

/-- The eight line writes of `DRIVE v`, least significant bit first (R145). -/
def driveActions (v : Byte) : List Action := lsbFirst.map fun (i : Fin 8) => .pin (.d i) (v.getLsbD i.val)

/-- `DRIVE v` (R145): "valid only when direction == OUTPUT" (R146). DESIGN CHOICE (assumption log 16):
`DIR` is looked at first, so where `OE_n = WE_n = 0` holds as well the verdict is `driveWhileInput`, one of
the two that 60_exceptions.md R204 leaves free. -/
def drive (v : Byte) (s : State) : Result :=
  if s.dir = .output then run (driveActions v) s else raise .driveWhileInput s

/-- The eight samples of `SAMPLE`, most significant bit first (R148). -/
def sampleActions : List Action := msbFirst.map .sample

/-- `SAMPLE` (R148): "valid only when direction == INPUT" (R149). DESIGN CHOICE (assumption log 16): `DIR`
is looked at first, so where `OE_n = WE_n = 0` or contention holds as well the verdict is
`sampleWhileOutput`, one of those that 60_exceptions.md R204 leaves free. -/
def sample (s : State) : Result :=
  if s.dir = .input then run sampleActions s else raise .sampleWhileOutput s

/-- SETDIR (R141). The operand is bit 0 of `data`; `addr` is ignored (30_encoding.md R93). -/
def execSetdir (_addr : Addr) (data : Byte) (s : State) : Result := setDir (dirOperand data) s

/-- DRIVE (R145). The operand is `data`; `addr` is ignored (30_encoding.md R93). -/
def execDrive (_addr : Addr) (data : Byte) (s : State) : Result := drive data s

/-- SAMPLE (R148). It takes nothing (30_encoding.md R93); the byte is left in `RDATA`. -/
def execSample (_addr : Addr) (_data : Byte) (s : State) : Result := sample s

end Sys2Proof.Machine
end

