-- ==== Sys2Proof/Syntax.lean ====
section
/-! DEFINITION. The seven operations of spec/opcode_table.json (30_encoding.md R90, R98, R103), one
constructor each. Every operation has the one format C (R91), so every constructor carries both operand
fields of the word, the ignored ones too: acceptance loads them (R92, D20) though nothing reads them. -/

namespace Sys2Proof

/-- An operation with the `addr` and `data` fields of its word. -/
inductive Instr where
  /-- `INIT`, `initialize()`; both fields ignored (R90, R96). -/
  | init (addr : Addr) (data : Byte)
  /-- `READ addr`, `read(address) -> byte`; `data` ignored (R90, R96). -/
  | read (addr : Addr) (data : Byte)
  /-- `WRITE addr, data`, `write(address, byte)` (R90). -/
  | write (addr : Addr) (data : Byte)
  /-- `LATCH addr`, internal; the operand is in `addr` (R93, R98). -/
  | latch (addr : Addr) (data : Byte)
  /-- `SETDIR output`, internal; the operand is bit 0 of `data`, 1 for OUTPUT (R93, R98). -/
  | setdir (addr : Addr) (data : Byte)
  /-- `DRIVE data`, internal (R93, R98). -/
  | drive (addr : Addr) (data : Byte)
  /-- `SAMPLE`, internal; "takes nothing" (R93, R98). -/
  | sample (addr : Addr) (data : Byte)
  deriving DecidableEq, Repr

end Sys2Proof
end

