-- ==== Sys2Proof/Machine/Controller.lean ====
section
/-! DEFINITION. The control-line timing sequencer: the numbered steps of READ and WRITE, and the three
host commands INIT, READ and WRITE (42_controller.md). -/

namespace Sys2Proof.Machine

/-- The seven actions of INIT after acceptance, in R162's order. -/
def initActions : List Action :=
  [.dirset .input, .pin .ceN true, .pin .oeN true, .pin .weN true,
   .pin .srclk false, .pin .ser false, .pin .rclk false]

/-- INIT's step (R162). "Faults: none", and before it ends the lines are unspecified (70_reset_and_hazards.md
R234), so its actions are applied without the verdicts of `act` (assumption log 8). It sets `INITED`. -/
def initStep (s : State) : State :=
  { initActions.foldl (fun s a => a.apply s) s with inited := true }

/-- Read step 1 (R164): switch the bus to INPUT if it is OUTPUT. -/
def readStep1 (s : State) : Result := if s.dir = .output then setDir .input s else .next s

/-- Read step 2 (R165). -/
def readStep2 (s : State) : Result := latch s.cmdAddr s

/-- Read step 3 (R166): chip-enable, then output-enable (D10). -/
def readStep3 (s : State) : Result := run [.pin .ceN false, .pin .oeN false] s

/-- Read step 4 (R167). -/
def readStep4 (s : State) : Result := run [.wait s.params.tOeValid] s

/-- Read step 5 (R168). -/
def readStep5 (s : State) : Result := sample s

/-- Read step 6 (R169). -/
def readStep6 (s : State) : Result :=
  run [.pin .ceN true, .pin .oeN true, .wait s.params.tSettle] s

/-- Write step 1 (R172): switch the bus to OUTPUT if it is INPUT. -/
def writeStep1 (s : State) : Result := if s.dir = .input then setDir .output s else .next s

/-- Write step 2 (R173). -/
def writeStep2 (s : State) : Result := run [.pin .oeN true, .wait s.params.tSettle] s

/-- Write step 3 (R174). -/
def writeStep3 (s : State) : Result := andThen (latch s.cmdAddr s) (run [.wait s.params.tSettle])

/-- Write step 4 (R175). -/
def writeStep4 (s : State) : Result := run [.pin .ceN false, .wait s.params.tSettle] s

/-- Write step 5 (R176). -/
def writeStep5 (s : State) : Result := run [.pin .weN false, .wait s.params.tSettle] s

/-- Write step 6 (R177). -/
def writeStep6 (s : State) : Result := drive s.cmdData s

/-- Write step 7 (R178). -/
def writeStep7 (s : State) : Result := run [.wait s.params.tWp] s

/-- Write step 8 (R179): the chip commits at the rise (20_memory.md R73). -/
def writeStep8 (s : State) : Result := run [.pin .weN true, .wait s.params.tSettle] s

/-- Write step 9 (R180). -/
def writeStep9 (s : State) : Result := run [.pin .ceN true, .wait s.params.tSettle] s

/-- Write step 10 (R181): only when `OE_REASSERT_AFTER_WRITE` is true. -/
def writeStep10 (s : State) : Result :=
  if s.params.oeReassert then run [.pin .oeN false] s else .next s

/-- One step of the sequencer: the numbered step at `SEQ`, then on to the next number; the last step of a
command returns to `IDLE` (10_state.md R36). At `IDLE` nothing happens. -/
def seqStep (s : State) : Result :=
  match s.seq with
  | .idle => .next s
  | .ini => returnIdle (initStep s)
  | .rd1 => andThen (readStep1 s) (goto .rd2)
  | .rd2 => andThen (readStep2 s) (goto .rd3)
  | .rd3 => andThen (readStep3 s) (goto .rd4)
  | .rd4 => andThen (readStep4 s) (goto .rd5)
  | .rd5 => andThen (readStep5 s) (goto .rd6)
  | .rd6 => andThen (readStep6 s) returnIdle
  | .wr1 => andThen (writeStep1 s) (goto .wr2)
  | .wr2 => andThen (writeStep2 s) (goto .wr3)
  | .wr3 => andThen (writeStep3 s) (goto .wr4)
  | .wr4 => andThen (writeStep4 s) (goto .wr5)
  | .wr5 => andThen (writeStep5 s) (goto .wr6)
  | .wr6 => andThen (writeStep6 s) (goto .wr7)
  | .wr7 => andThen (writeStep7 s) (goto .wr8)
  | .wr8 => andThen (writeStep8 s) (goto .wr9)
  | .wr9 => andThen (writeStep9 s) (goto .wr10)
  | .wr10 => andThen (writeStep10 s) returnIdle

/-- At most `n` steps of the sequencer, stopping at `IDLE`. -/
def finishWithin : Nat → State → Result
  | 0, s => .next s
  | n + 1, s => if s.seq = .idle then .next s else andThen (seqStep s) (finishWithin n)

/-- The command in flight to its return (R161). A WRITE has ten steps and no command more, so ten are
enough from every position (70_reset_and_hazards.md R253). -/
def finish (s : State) : Result := finishWithin 10 s

/-- INIT (R162): acceptance, then its one step. Both fields are ignored but for being loaded (D20). -/
def execInit (addr : Addr) (data : Byte) (s : State) : Result :=
  andThen (accept .ini addr data s) finish

/-- READ (R163): acceptance, then read steps 1 to 6. The result is `RDATA` at the return (R170). -/
def execRead (addr : Addr) (data : Byte) (s : State) : Result :=
  andThen (needInited s) fun s => andThen (accept .rd1 addr data s) finish

/-- WRITE (R171): acceptance, then write steps 1 to 10. It answers nothing (R182). -/
def execWrite (addr : Addr) (data : Byte) (s : State) : Result :=
  andThen (needInited s) fun s => andThen (accept .wr1 addr data s) finish

/-- What an operation hands back at its return (30_encoding.md R94): READ the content of `RDATA`, and so
does SAMPLE to the sequencer that called it (41_data_bus.md R148); no other answers anything. -/
def response (i : Instr) (s : State) : Option Byte :=
  match i with
  | .read _ _ | .sample _ _ => some s.rdata
  | .init _ _ | .write _ _ | .latch _ _ | .setdir _ _ | .drive _ _ => none

end Sys2Proof.Machine
end

