-- ==== Sys2Proof/Machine/Dispatch.lean ====
section
/-! DEFINITION. One arm per operation of spec/opcode_table.json, each one direct call of its meaning. -/

namespace Sys2Proof.Machine

def exec (i : Instr) (s : State) : Host.Outcome State Fault Refusal :=
  match i with
  | .init addr data => Sys2Proof.Machine.execInit addr data s
  | .read addr data => Sys2Proof.Machine.execRead addr data s
  | .write addr data => Sys2Proof.Machine.execWrite addr data s
  | .latch addr data => Sys2Proof.Machine.execLatch addr data s
  | .setdir addr data => Sys2Proof.Machine.execSetdir addr data s
  | .drive addr data => Sys2Proof.Machine.execDrive addr data s
  | .sample addr data => Sys2Proof.Machine.execSample addr data s

end Sys2Proof.Machine
end

