-- ==== Sys2Proof/WellFormed.lean ====
section
/-! DEFINITION. Which terms of `Instr` are canonical: the ones the assembler of 30_encoding.md R101
produces, whose ignored fields are zero (R96). The decoder accepts the others too, and they run the
same; no operand value is illegal (R95), so there is nothing else to check. -/

namespace Sys2Proof

/-- R96: "The canonical encoding, which the assembler of rule R101 produces, has ignored fields zero."
For `SETDIR` all of `data` but bit 0 is ignored (R93). -/
def Instr.wellFormed : Instr → Bool
  | .init addr data => decide (addr = 0#16) && decide (data = 0#8)
  | .read _ data => decide (data = 0#8)
  | .write _ _ => true
  | .latch _ data => decide (data = 0#8)
  | .setdir addr data => decide (addr = 0#16) && decide (data ≤ 1#8)
  | .drive addr _ => decide (addr = 0#16)
  | .sample addr data => decide (addr = 0#16) && decide (data = 0#8)

end Sys2Proof
end

