-- ==== Sys2Proof/Decode.lean ====
section
/-! DEFINITION. The decoder, total on every 27-bit word (30_encoding.md R104), and after it the encoder,
from the same fields of format C (R91) and the same operation codes (R93). -/

namespace Sys2Proof

/-- Why a word is not an operation at the place it was offered. -/
inductive DecodeError where
  /-- `op = 011` (R93, R97). -/
  | reservedOp
  /-- `op = 1xx` at the command port: a sub-operation, which HOST cannot start (R97, R98). -/
  | internalOp
  /-- A host command where the sequencer calls a sub-operation: the sequencer issues only the four
  internal codes (D4, R98). -/
  | notInternal
  deriving DecidableEq, Repr

/-- What a decoder answers. -/
inductive Decoded where
  | ok (i : Instr)
  | error (e : DecodeError)
  deriving DecidableEq, Repr

/-- Bits 26:24 of the word, the operation select (R91). -/
def opField (w : Command) : BitVec 3 := w.extractLsb' 24 3

/-- Bits 23:8 of the word, the address operand (R91). -/
def addrField (w : Command) : Addr := w.extractLsb' 8 16

/-- Bits 7:0 of the word, the data operand (R91). -/
def dataField (w : Command) : Byte := w.extractLsb' 0 8

/-- The opcode map of R93 and R103: "The decoder looks at `op` only" (D3). -/
def decode (w : Command) : Decoded :=
  match (opField w).toNat with
  | 0 => .ok (.init (addrField w) (dataField w))
  | 1 => .ok (.read (addrField w) (dataField w))
  | 2 => .ok (.write (addrField w) (dataField w))
  | 4 => .ok (.latch (addrField w) (dataField w))
  | 5 => .ok (.setdir (addrField w) (dataField w))
  | 6 => .ok (.drive (addrField w) (dataField w))
  | 7 => .ok (.sample (addrField w) (dataField w))
  | _ => .error .reservedOp

/-- The four operations "which only the sequencer starts" (R98). -/
def Instr.internal : Instr → Bool
  | .init _ _ | .read _ _ | .write _ _ => false
  | .latch _ _ | .setdir _ _ | .drive _ _ | .sample _ _ => true

/-- The host commands (30_encoding.md R90). -/
def Instr.isCommand (i : Instr) : Bool := !i.internal

/-- The decoder of the command port, R104: a word of a sub-operation is refused there. -/
def decodeHost (w : Command) : Decoded :=
  match decode w with
  | .ok i => if i.internal then .error .internalOp else .ok i
  | .error e => .error e

/-- The decoder of the sequencer's own calls: the four internal codes and no other (R98, D4). -/
def decodeCall (w : Command) : Decoded :=
  match decode w with
  | .ok i => if i.internal then .ok i else .error .notInternal
  | .error e => .error e

/-- The `op` code of an operation (R93). -/
def Instr.op : Instr → BitVec 3
  | .init _ _ => 0b000#3
  | .read _ _ => 0b001#3
  | .write _ _ => 0b010#3
  | .latch _ _ => 0b100#3
  | .setdir _ _ => 0b101#3
  | .drive _ _ => 0b110#3
  | .sample _ _ => 0b111#3

/-- The `addr` field of an operation (R91). -/
def Instr.addr : Instr → Addr
  | .init a _ | .read a _ | .write a _ | .latch a _ | .setdir a _ | .drive a _ | .sample a _ => a

/-- The `data` field of an operation (R91). -/
def Instr.data : Instr → Byte
  | .init _ d | .read _ d | .write _ d | .latch _ d | .setdir _ d | .drive _ d | .sample _ d => d

/-- The word of an operation, `oooaaaaaaaaaaaaaaaadddddddd` (R91). -/
def encode (i : Instr) : Command := i.op ++ i.addr ++ i.data

/-- `match` of an operation's row of R103. -/
def Instr.rowMatch (i : Instr) : Command := i.op ++ (0#24 : BitVec 24)

/-- `mask` of every row of R103. -/
def rowMask : Command := 0x7000000#27

/-- The word of `nbits` bits that the number `w` gives, the missing high bits zero. -/
def tableWord (nbits w : Nat) : Command := BitVec.ofNat 27 (w % 2 ^ nbits)

/-- The row of spec/opcode_table.json that the number `w` is read as: bit 0 of `w` is bit 0 of the one
27-bit word (R91). A number with a bit above bit 26 is no command word. -/
def decodeTableWord (nbits w : Nat) : Option Instr :=
  if w % 2 ^ nbits < 2 ^ 27 then
    match decode (tableWord nbits w) with
    | .ok i => some i
    | .error _ => none
  else none

end Sys2Proof
end

