-- ==== Sys2Proof/Machine/Port.lean ====
section
/-! DEFINITION. The command port (30_encoding.md R90, R97; 60_exceptions.md R208): which operation a move
asks for, taking a move, and offering one. -/

namespace Sys2Proof.Machine

/-- The refusal of a word that is no operation at the place it was offered (30_encoding.md R97, R104). -/
def refusalOf : DecodeError → Refusal
  | .reservedOp => .reservedOp
  | .internalOp => .internalOp
  | .notInternal => .notInternal

/-- The operation a move asks for: HOST's words go through the decoder of the command port (R104), the
sequencer's calls through that of the internal codes (R98). -/
def Move.decode (m : Move) : Decoded :=
  match m.issuer with
  | .host => decodeHost m.word
  | .sequencer => decodeCall m.word

/-- The state once its next move has been taken. -/
def takeMove (s : State) : State := { s with port := s.port.tail }

/-- The move that has a word's operation run: HOST offers the three host commands and the reserved code,
the sequencer issues the four internal ones (30_encoding.md R93, R98). -/
def moveOf (w : Command) : Move :=
  match Sys2Proof.decode w with
  | .ok i => if i.internal then ⟨.sequencer, w⟩ else ⟨.host, w⟩
  | .error _ => ⟨.host, w⟩

/-- Put a move before all others, with the sequencer at `IDLE`, where the next move is taken. -/
def offer (m : Move) (s : State) : State := { s with port := m :: s.port, seq := .idle }

end Sys2Proof.Machine
end

