-- ==== Sys2Proof/Machine/Step.lean ====
section
/-! DEFINITION. One step of the machine: from one return to the next. -/

namespace Sys2Proof.Machine

/-- One step. A state whose sticky FAULT mark is set has no meaning, and the fault stands (00_scope.md R13;
10_state.md R41). While a command is
in flight it runs on to its return (42_controller.md R161). At `IDLE` the next move is taken and its
operation run (10_state.md R35); a word that is no operation there is refused (30_encoding.md R97); with
no move left CORE idles with its outputs held (60_exceptions.md R221). -/
def step (s : State) : Host.Outcome State Fault Refusal :=
  match s.faultMark with
  | some v => raise v s
  | none =>
    if s.seq = .idle then
      match s.port with
      | [] => .next s
      | m :: _ =>
        match m.decode with
        | .ok i => exec i (takeMove s)
        | .error e => .refused (refusalOf e)
    else finish s

/-- `s` with the word that the number `w` gives offered as the next move, so that the next step runs it:
by HOST for INIT, READ and WRITE, by the sequencer for the four internal operations (assumption log 5,
log 6). -/
def State.withFetchWord (s : State) (nbits w : Nat) : State := offer (moveOf (tableWord nbits w)) s

end Sys2Proof.Machine
end

