-- ==== Sys2Proof/Safety.lean ====
section
/-! DEFINITION. The terms claims are stated in: the states a command is accepted in, the events each
operation makes, the invariant of a run, and the memory a program of commands leaves. -/

namespace Sys2Proof.Machine

/-- CORE at rest after INIT, ready for a READ or a WRITE: the part of the idle invariants of
10_state.md R45 that a command relies on. -/
abbrev Ready (s : State) : Prop :=
  s.seq = .idle ∧ s.inited = true ∧ s.ceN = true ∧ s.weN = true ∧ s.srclk = false

/-- The three pairs of `OE_n` and `DIR` of R45: `(1, INPUT)` after INIT or READ, and after WRITE
`(0, OUTPUT)` or `(1, OUTPUT)` as `OE_REASSERT_AFTER_WRITE` says. -/
abbrev IdlePair (s : State) : Prop :=
  (s.oeN = true ∧ s.dir = .input) ∨ (s.oeN = !s.params.oeReassert ∧ s.dir = .output)

/-- No write pulse is under way: the chip is deselected or write-enable is high. -/
abbrev NoPulse (s : State) : Prop := s.ceN = true ∨ s.weN = true

/-- The canonical form of MEM. -/
abbrev MemWf (s : State) : Prop := Memory.wf (unlisted s.params) s.mem = true

/-- Every move still to come is one of HOST's (60_exceptions.md R208: HOST "cannot start a
sub-operation", and only the sequencer's own steps do). -/
abbrev HostOnly (s : State) : Prop := ∀ m ∈ s.port, m.issuer = Issuer.host

/-- What holds of CORE between the commands of a run (R45; 70_reset_and_hazards.md R233). -/
abbrev RunInv (s : State) : Prop :=
  s.faultMark = none ∧ s.seq = .idle ∧ HostOnly s ∧ MemWf s ∧
    (s.inited = true → Ready s ∧ IdlePair s)

/-- One shift-clock pulse as events (40_address_latch.md R122). -/
def pulseEvents (b : Level) : List Event := [.pin .ser b, .pin .srclk true, .pin .srclk false]

/-- The 50 events of `LATCH a`: bit 15 first, bit 0 last (40_address_latch.md R121). -/
def latchEvents (a : Addr) : List Event :=
  .pin .rclk false ::
    ((List.range 16).reverse.flatMap (fun (i : Nat) => pulseEvents (a.getLsbD i)) ++ [.pin .rclk true])

/-- The 8 events of `DRIVE v` (41_data_bus.md R145). -/
def driveEvents (v : Byte) : List Event := lsbFirst.map fun (i : Fin 8) => .pin (.d i) (v.getLsbD i.val)

/-- The 8 events of a SAMPLE that assembles `b` (41_data_bus.md R148). -/
def sampleEvents (b : Byte) : List Event := msbFirst.map fun (i : Fin 8) => .sample i (b.getLsbD i.val)

/-- The 7 events of INIT (42_controller.md R162). -/
def initEvents : List Event :=
  [.dir .input, .pin .ceN true, .pin .oeN true, .pin .weN true, .pin .srclk false,
   .pin .ser false, .pin .rclk false]

/-- The events of a READ of operand `a` that samples `b`, with the bus at `d` on entry (42_controller.md
R163). -/
def readEvents (p : Params) (d : Dir) (a : Addr) (b : Byte) : List Event :=
  (if d = .output then [.dir .input] else []) ++ latchEvents a ++
    [.pin .ceN false, .pin .oeN false, .wait p.tOeValid] ++ sampleEvents b ++
    [.pin .ceN true, .pin .oeN true, .wait p.tSettle]

/-- The events of a WRITE before its pulse: steps 1 to 4 (42_controller.md R172 to R175). -/
def writeLead (p : Params) (d : Dir) (a : Addr) : List Event :=
  (if d = .input then [.dir .output] else []) ++ [.pin .oeN true, .wait p.tSettle] ++
    latchEvents a ++ [.wait p.tSettle, .pin .ceN false, .wait p.tSettle]

/-- What lies between the two edges of write-enable in a WRITE of `v`: steps 5 to 7 (42_controller.md
R176 to R178). -/
def pulseBody (p : Params) (v : Byte) : List Event :=
  .wait p.tSettle :: (driveEvents v ++ [.wait p.tWp])

/-- The events of a WRITE after its pulse: the waits of steps 8 and 9 and step 10 (42_controller.md R179
to R181). -/
def writeTail (p : Params) : List Event :=
  [.wait p.tSettle, .pin .ceN true, .wait p.tSettle] ++
    (if p.oeReassert then [.pin .oeN false] else [])

/-- The events of `WRITE a, v`, with the bus at `d` on entry (42_controller.md R171). -/
def writeEvents (p : Params) (d : Dir) (a : Addr) (v : Byte) : List Event :=
  writeLead p d a ++ .pin .weN false :: (pulseBody p v ++ .pin .weN true :: writeTail p)

/-- The position after each position of the sequencer (10_state.md R36). -/
def Seq.next : Seq → Seq
  | .idle => .idle
  | .ini => .idle
  | .rd1 => .rd2 | .rd2 => .rd3 | .rd3 => .rd4 | .rd4 => .rd5 | .rd5 => .rd6 | .rd6 => .idle
  | .wr1 => .wr2 | .wr2 => .wr3 | .wr3 => .wr4 | .wr4 => .wr5 | .wr5 => .wr6 | .wr6 => .wr7
  | .wr7 => .wr8 | .wr8 => .wr9 | .wr9 => .wr10 | .wr10 => .idle

/-- A program: commands one after the other, each when the one before has returned (20_memory.md R78). -/
def execAll : List Instr → State → Result
  | [], s => .next s
  | i :: is, s => andThen (exec i s) (execAll is)

/-- What a program leaves in cell `x`: the byte of the latest WRITE to it, else what was there (20_memory.md
R78). -/
def lastWritten (x : CellAddr) (b : Byte) : List Instr → Byte
  | [] => b
  | .write a v :: is => lastWritten x (if cell a = x then v else b) is
  | _ :: is => lastWritten x b is

end Sys2Proof.Machine
end

