-- ==== Sys2Proof/Certificates/Slice0/Obligations.lean ====
section
/-! DEFINITION. The statements about the machine, each from the rules its docstring cites. -/

open Sys2Proof Sys2Proof.Machine

/-! ## Encoding -/

/-- 30_encoding.md R91, R93, R103: no bit of an operation is lost between its word and the decoder, at
every value of both operand fields. -/
def Obligations.DecodeOfEncodeGivesTheInstruction : Prop :=
  ∀ i : Instr, decode (encode i) = .ok i

/-- 30_encoding.md R91, R93: every word that is an operation is that operation's word and no other's. -/
def Obligations.EncodeOfDecodeGivesTheWord : Prop :=
  ∀ (w : Command) (i : Instr), decode w = .ok i → encode i = w

/-- 30_encoding.md R103: the match and mask of the opcode table pick out each operation. -/
def Obligations.RowMasksPickTheOperation : Prop :=
  ∀ (w : Command) (i : Instr),
    w &&& 0x7000000#27 = i.rowMatch ↔ ∃ j : Instr, decode w = .ok j ∧ j.op = i.op

/-- 30_encoding.md R104: the decoder of the command port, by the `op` field and by match and mask. -/
def Obligations.HostDecoderFollowsTheOpField : Prop :=
  ∀ w : Command,
    (w.extractLsb' 24 3 = 0b000#3 →
      decodeHost w = .ok (.init (w.extractLsb' 8 16) (w.extractLsb' 0 8))) ∧
    (w.extractLsb' 24 3 = 0b001#3 →
      decodeHost w = .ok (.read (w.extractLsb' 8 16) (w.extractLsb' 0 8))) ∧
    (w.extractLsb' 24 3 = 0b010#3 →
      decodeHost w = .ok (.write (w.extractLsb' 8 16) (w.extractLsb' 0 8))) ∧
    (w.extractLsb' 24 3 = 0b011#3 → decodeHost w = .error .reservedOp) ∧
    (w.getLsbD 26 = true → decodeHost w = .error .internalOp) ∧
    (w &&& 0x7000000#27 = 0x0000000#27 ↔ w.extractLsb' 24 3 = 0b000#3) ∧
    (w &&& 0x7000000#27 = 0x1000000#27 ↔ w.extractLsb' 24 3 = 0b001#3) ∧
    (w &&& 0x7000000#27 = 0x2000000#27 ↔ w.extractLsb' 24 3 = 0b010#3)

/-- 30_encoding.md R103, its examples, and one word of each internal row written out by hand. -/
def Obligations.ExampleWordsDecode : Prop :=
  decode 0x0000000#27 = .ok (.init 0x0000#16 0x00#8) ∧
  decode 0x17FFF00#27 = .ok (.read 0x7FFF#16 0x00#8) ∧
  decode 0x280015A#27 = .ok (.write 0x8001#16 0x5A#8) ∧
  decode 0x3000000#27 = .error .reservedOp ∧
  decode 0x4123400#27 = .ok (.latch 0x1234#16 0x00#8) ∧
  decode 0x5000001#27 = .ok (.setdir 0x0000#16 0x01#8) ∧
  decode 0x60000AA#27 = .ok (.drive 0x0000#16 0xAA#8) ∧
  decode 0x7000000#27 = .ok (.sample 0x0000#16 0x00#8)

/-- 30_encoding.md R96, with R92 and D20: an ignored field is loaded into its operand register and
changes nothing else; a sub-operation does not load it at all. -/
def Obligations.IgnoredFieldsChangeNothing : Prop :=
  (∀ (a a' : Addr) (d d' : Byte) (s t : State), exec (.init a d) s = .next t →
    exec (.init a' d') s = .next { t with cmdAddr := a', cmdData := d' }) ∧
  (∀ (a : Addr) (d d' : Byte) (s t : State), exec (.read a d) s = .next t →
    exec (.read a d') s = .next { t with cmdData := d' }) ∧
  (∀ (a : Addr) (d d' : Byte) (s : State), exec (.latch a d) s = exec (.latch a d') s) ∧
  (∀ (a a' : Addr) (d d' : Byte) (s : State), d.getLsbD 0 = d'.getLsbD 0 →
    exec (.setdir a d) s = exec (.setdir a' d') s) ∧
  (∀ (a a' : Addr) (d : Byte) (s : State), exec (.drive a d) s = exec (.drive a' d) s) ∧
  (∀ (a a' : Addr) (d d' : Byte) (s : State), exec (.sample a d) s = exec (.sample a' d') s)

/-! ## The step and the command port -/

/-- 10_state.md R35, 30_encoding.md R104: at `IDLE` a step takes the next move and runs the operation its
word decodes to. -/
def Obligations.StepRunsTheDecodedMove : Prop :=
  ∀ (s : State) (m : Move) (rest : List Move) (i : Instr),
    s.faultMark = none → s.seq = .idle → s.port = m :: rest → m.decode = .ok i →
      step s = exec i { s with port := rest }

/-- The host's fetch aid (assumption log 5): the word a number gives is what the next step runs. -/
def Obligations.FetchWordIsRunNext : Prop :=
  ∀ (s : State) (nbits w : Nat) (i : Instr),
    s.faultMark = none → decodeTableWord nbits w = some i →
      step (s.withFetchWord nbits w) = exec i { s with seq := .idle }

/-- 30_encoding.md R97, R98: a word HOST offers that is reserved or names a sub-operation is refused by
name, and so is a sequencer's call of a host command (assumption log 6). -/
def Obligations.PortRefusesByName : Prop :=
  ∀ (s : State) (m : Move) (rest : List Move),
    s.faultMark = none → s.seq = .idle → s.port = m :: rest →
      (m.word.extractLsb' 24 3 = 0b011#3 → step s = .refused .reservedOp) ∧
      (m.issuer = .host → m.word.getLsbD 26 = true → step s = .refused .internalOp) ∧
      (m.issuer = .sequencer → m.word.getLsbD 26 = false → m.word.extractLsb' 24 3 ≠ 0b011#3 →
        step s = .refused .notInternal)

/-- 60_exceptions.md R221: between commands CORE idles with its outputs held. -/
def Obligations.IdleStepHoldsEverything : Prop :=
  ∀ s : State, s.faultMark = none → s.seq = .idle → s.port = [] → step s = .next s

/-- 10_state.md R41, 00_scope.md R13: the FAULT mark is sticky. A state that has it answers its fault and
is left as it is, so the mark is never cleared; that a marked state may be stepped at all is the model's
(assumption log 10). -/
def Obligations.FaultMarkIsSticky : Prop :=
  ∀ (s : State) (v : Verdict), s.faultMark = some v → step s = .fault (v.fault s)

/-- 10_state.md R36, 70_reset_and_hazards.md R253: from every state, a step that answers a next state
has returned to `IDLE`: every command ends, also one met in the middle. -/
def Obligations.EveryStepReturnsToIdle : Prop :=
  ∀ s t : State, step s = .next t → t.seq = .idle

/-- 10_state.md R36: the sequencer moves to the next number and never counts past the last step. -/
def Obligations.SequencerCountsForward : Prop :=
  ∀ s t : State, seqStep s = .next t → t.seq = s.seq.next

/-- 10_state.md R35, 93_implementation_defined.md U24: a command handed to a busy CORE is refused. -/
def Obligations.BusyCoreRefusesCommands : Prop :=
  ∀ (a : Addr) (d : Byte) (s : State), s.seq ≠ .idle →
    exec (.init a d) s = .refused .busy ∧
    (s.inited = true → exec (.read a d) s = .refused .busy) ∧
    (s.inited = true → exec (.write a d) s = .refused .busy)

/-- 70_reset_and_hazards.md R232: READ or WRITE before the first INIT. -/
def Obligations.CommandsBeforeInitAreRefused : Prop :=
  ∀ (a : Addr) (d : Byte) (s : State), s.inited = false →
    exec (.read a d) s = .refused .notInitialised ∧ exec (.write a d) s = .refused .notInitialised

/-! ## Operands, the shift-register pair, the bus -/

/-- 40_address_latch.md R120: the decomposition of an address, and its round trip (R127). -/
def Obligations.AddressDecomposes : Prop :=
  ∀ a : Addr,
    (lowByte a).toNat = a.toNat % 256 ∧
    256 ∣ a.toNat - (lowByte a).toNat ∧
    (highByte a).toNat = (a.toNat - (lowByte a).toNat) / 256 ∧
    (highByte a).toNat = a.toNat / 256 ∧
    lowByte a = a.extractLsb' 0 8 ∧ highByte a = a.extractLsb' 8 8 ∧
    (highByte a).toNat * 256 + (lowByte a).toNat = a.toNat ∧
    ((highByte a).toNat < 128 ↔ a.toNat ≤ 32767)

/-- 20_memory.md R65: the cell an operand reaches, and that READ reaches it whatever bit 15 is. -/
def Obligations.AddressBitFifteenIsIgnored : Prop :=
  (∀ a : Addr, (cell a).toNat = a.toNat % 32768) ∧
  (∀ (a b : Addr) (d : Byte) (s t u : State), a.toNat % 32768 = b.toNat % 32768 → Ready s →
    s.params.chipPresent = true → exec (.read a d) s = .next t → exec (.read b d) s = .next u →
      t.rdata = u.rdata ∧ addressPins t = addressPins u)

/-- 10_state.md R25: the shift edge, and that nothing else moves the shift stage. -/
def Obligations.ShiftEdgeTakesOneBit : Prop :=
  ∀ (act : Action) (s : State),
    (act = .pin .srclk true → s.srclk = false →
      (act.apply s).sr = s.sr.extractLsb' 0 15 ++ BitVec.ofBool s.ser ∧
      (act.apply s).sr.toNat = (s.sr.toNat * 2 + s.ser.toNat) % 65536) ∧
    (¬(act = .pin .srclk true ∧ s.srclk = false) → (act.apply s).sr = s.sr)

/-- 10_state.md R26: the latch edge moves all 16 bits, and nothing else moves the output stage. -/
def Obligations.LatchEdgeTakesTheShiftStage : Prop :=
  ∀ (act : Action) (s : State),
    (act = .pin .rclk true → s.rclk = false →
      (act.apply s).al = s.sr ∧ addressPins (act.apply s) = s.sr.extractLsb' 0 15) ∧
    (¬(act = .pin .rclk true ∧ s.rclk = false) → (act.apply s).al = s.al)

/-- 20_memory.md R71: who drives the data lines, what they carry, and that a floating line is a fresh
draw at each evaluation. -/
def Obligations.BusResolution : Prop :=
  ∀ s : State,
    (chipDrives s = true ↔
      s.params.chipPresent = true ∧ s.ceN = false ∧ s.oeN = false ∧ s.weN = true) ∧
    (coreDrives s = true ↔ s.dir = .output) ∧
    (coreDrives s = true → chipDrives s = true →
      bus s = .contended ∧ violation s = some .busContention) ∧
    (coreDrives s = true → chipDrives s = false → bus s = .driven s.dout) ∧
    (coreDrives s = false → chipDrives s = true →
      bus s = .driven (memRead s (s.al.extractLsb' 0 15))) ∧
    (coreDrives s = false → chipDrives s = false → bus s = .floating ∧
      busByte s = (Config.freeByte s.draws, { s with draws := s.draws + 1 })) ∧
    (∀ (v : Byte) (i : Fin 8), bus s = .driven v → level i s = (v.getLsbD i.val, s)) ∧
    (∀ i : Fin 8, bus s = .floating →
      level i s = ((Config.freeByte s.draws).getLsbD i.val, { s with draws := s.draws + 1 }))

/-- 10_state.md R32, 20_memory.md R71, R73: an action that brings the lines into a forbidden state, or
meets them in one, answers the fault of that name, and none leaves them there. -/
def Obligations.ForbiddenLinesFault : Prop :=
  ∀ (a : Action) (s : State),
    (∀ t, act a s = .next t →
      ¬(t.oeN = false ∧ t.weN = false) ∧ ¬(coreDrives t = true ∧ chipDrives t = true)) ∧
    (s.oeN = false → s.weN = false → act a s = .fault (.oeWeOverlap (mark .oeWeOverlap s))) ∧
    (coreDrives s = true → chipDrives s = true →
      act a s = .fault (.busContention (mark .busContention s))) ∧
    (violation s = none → unmodelled a s = false →
      ((a.apply s).oeN = false → (a.apply s).weN = false →
        act a s = .fault (.oeWeOverlap (mark .oeWeOverlap (a.apply s)))) ∧
      (coreDrives (a.apply s) = true → chipDrives (a.apply s) = true →
        act a s = .fault (.busContention (mark .busContention (a.apply s)))))

/-- 20_memory.md R77, U25: the waveforms CHIP has no behaviour for, met with the lines well before. -/
def Obligations.UnmodelledWaveformsAreRefused : Prop :=
  ∀ s : State, violation s = none → s.weN = false →
    (s.ceN = false → act (.pin .ceN true) s = .refused .unmodelledWaveform) ∧
    (s.ceN = true → act (.pin .ceN false) s = .refused .unmodelledWaveform) ∧
    (s.ceN = false → s.rclk = false → s.al ≠ s.sr →
      act (.pin .rclk true) s = .refused .unmodelledWaveform) ∧
    (s.ceN = false → pulseTime s.trace < s.params.tSettle + s.params.tWp →
      act (.pin .weN true) s = .refused .unmodelledWaveform)

/-- 20_memory.md R73, R74, R75: the end of a write pulse stores the byte then on the bus, `DOUT` when
CORE drives it and a free byte when nobody does, if a chip is there and commits. -/
def Obligations.CommitStoresTheByteOnTheBus : Prop :=
  ∀ s : State, s.weN = false → s.ceN = false → s.oeN = true →
    s.params.tSettle + s.params.tWp ≤ pulseTime s.trace →
    (s.params.chipPresent = true → s.params.chipCommits = true → s.dir = .output →
      act (.pin .weN true) s = .next (emit (.pin .weN true)
        { memWrite (addressPins s) s.dout s with weN := true })) ∧
    (s.params.chipPresent = true → s.params.chipCommits = true → s.dir = .input →
      act (.pin .weN true) s = .next (emit (.pin .weN true)
        { memWrite (addressPins s) (Config.freeByte s.draws) s with
          weN := true, draws := s.draws + 1 })) ∧
    (s.params.chipPresent = false ∨ s.params.chipCommits = false →
      act (.pin .weN true) s = .next (emit (.pin .weN true) { s with weN := true }))

/-- 20_memory.md R60, R72, R73: a stored byte is read back and every other cell is left alone. -/
def Obligations.CellsReadBackWhatWasStored : Prop :=
  ∀ (s : State) (a b : CellAddr) (v : Byte), MemWf s →
    memRead (memWrite a v s) a = v ∧
    (b ≠ a → memRead (memWrite a v s) b = memRead s b) ∧ MemWf (memWrite a v s)

/-! ## LATCH, SETDIR, DRIVE, SAMPLE -/

/-- 40_address_latch.md R123: what LATCH leaves behind, and that the address pins hold the old address
until the last event; with the 50 events of R121. -/
def Obligations.LatchPutsTheAddressOnThePins : Prop :=
  ∀ (a : Addr) (d : Byte) (s : State), s.srclk = false → violation s = none → NoPulse s →
    exec (.latch a d) s = .next { s with
      sr := a, al := a, ser := a.getLsbD 0, rclk := true, srclk := false,
      trace := s.trace ++ latchEvents a } ∧
    addressPins { s with al := a } = a.extractLsb' 0 15 ∧
    (∀ (k : Nat) (u : State), k < 50 → run ((latchActions a).take k) s = .next u → u.al = s.al)

/-- 40_address_latch.md R125: with `SRCLK` high on entry the first bit is lost; the pins are still right. -/
def Obligations.LatchFromHighClockLosesTheTopBit : Prop :=
  ∀ (a : Addr) (d : Byte) (s : State), s.srclk = true → violation s = none → NoPulse s →
    ∃ t, exec (.latch a d) s = .next t ∧
      t.sr = BitVec.ofBool (s.sr.getLsbD 0) ++ a.extractLsb' 0 15 ∧ t.al = t.sr ∧
      addressPins t = a.extractLsb' 0 15

/-- 20_memory.md R77: LATCH inside a write pulse that would change the address is refused. -/
def Obligations.LatchInsideAWritePulseIsRefused : Prop :=
  ∀ (a : Addr) (d : Byte) (s : State), s.srclk = false → s.weN = false → s.ceN = false →
    s.oeN = true → a ≠ s.al → exec (.latch a d) s = .refused .unmodelledWaveform

/-- 41_data_bus.md R141, R142: SETDIR to the other direction makes one event and switches `DIR`, where
the chip does not drive against it. -/
def Obligations.SetdirSwitchesAllLines : Prop :=
  ∀ (a : Addr) (d : Byte) (s : State), dirOperand d ≠ s.dir → violation s = none →
    (d.getLsbD 0 = true → chipDrives s = false) →
    exec (.setdir a d) s = .next { s with
      dir := if d.getLsbD 0 then .output else .input,
      trace := s.trace ++ [.dir (if d.getLsbD 0 then .output else .input)] }

/-- 41_data_bus.md R143: SETDIR to the direction the bus has is a no-op in every state, and the
sequencer's own test of `DIR` agrees with SETDIR's guard. -/
def Obligations.SetdirIsIdempotent : Prop :=
  (∀ (a : Addr) (d : Byte) (s : State), dirOperand d = s.dir → exec (.setdir a d) s = .next s) ∧
  (∀ s : State, readStep1 s = setDir .input s ∧ writeStep1 s = setDir .output s)

/-- 41_data_bus.md R141, 20_memory.md R71, 10_state.md R41: switching to OUTPUT against a driving chip is
contention; the switch and its event have happened in the state the fault leaves, and the mark is set. -/
def Obligations.SetdirAgainstTheChipFaults : Prop :=
  ∀ (a : Addr) (d : Byte) (s : State), d.getLsbD 0 = true → s.dir = .input → chipDrives s = true →
    exec (.setdir a d) s = .fault (.busContention { s with
      dir := .output, trace := s.trace ++ [.dir .output], faultMark := some .busContention })

/-- 41_data_bus.md R145: DRIVE leaves its operand in `DOUT` through eight events, bit 0 first. -/
def Obligations.DriveWritesEveryLine : Prop :=
  ∀ (a : Addr) (v : Byte) (s : State), s.dir = .output → violation s = none →
    exec (.drive a v) s = .next { s with dout := v, trace := s.trace ++ driveEvents v }

/-- 41_data_bus.md R148, R150: with the chip driving, SAMPLE leaves the addressed cell in `RDATA`. -/
def Obligations.SampleReadsTheDrivenByte : Prop :=
  ∀ (a : Addr) (d : Byte) (s : State), s.dir = .input → violation s = none → chipDrives s = true →
    exec (.sample a d) s = .next { s with
      rdata := memRead s (addressPins s),
      trace := s.trace ++ sampleEvents (memRead s (addressPins s)) }

/-- 41_data_bus.md R148, R149, 20_memory.md R71: with nobody driving, SAMPLE completes and each line's
level is a fresh free value (assumption log 2), whatever the free values are. -/
def Obligations.SampleOfFloatingLinesIsFree : Prop :=
  ∀ (a : Addr) (d : Byte) (s : State), s.dir = .input → violation s = none → chipDrives s = false →
    ∃ b : Byte,
      exec (.sample a d) s = .next { s with
        rdata := b, draws := s.draws + 8, trace := s.trace ++ sampleEvents b } ∧
      ∀ i : Fin 8,
        b.getLsbD i.val = (Config.freeByte (s.draws + (7 - i.val))).getLsbD i.val

/-- 41_data_bus.md R146, R149: the two contract violations of the data bus, which make no event. They come
before any verdict on the lines, the model's choice where 60_exceptions.md R204 leaves it free (assumption
log 16). -/
def Obligations.WrongDirectionFaults : Prop :=
  ∀ (a : Addr) (d : Byte) (s : State),
    (s.dir = .input → exec (.drive a d) s =
      .fault (.driveWhileInput { s with faultMark := some .driveWhileInput })) ∧
    (s.dir = .output → exec (.sample a d) s =
      .fault (.sampleWhileOutput { s with faultMark := some .sampleWhileOutput }))

/-! ## INIT, READ, WRITE -/

/-- 42_controller.md R162, 30_encoding.md R92: INIT from every idle state, whatever the lines held. -/
def Obligations.InitLeavesTheSafeIdleState : Prop :=
  ∀ (a : Addr) (d : Byte) (s : State), s.seq = .idle →
    exec (.init a d) s = .next { s with
      cmdAddr := a, cmdData := d, dir := .input, ceN := true, oeN := true, weN := true,
      srclk := false, ser := false, rclk := false, inited := true,
      trace := s.trace ++ initEvents }

/-- 42_controller.md R163 to R170, 20_memory.md R65, 30_encoding.md R94: READ with a chip. -/
def Obligations.ReadReturnsTheAddressedCell : Prop :=
  ∀ (a : Addr) (d : Byte) (s : State), Ready s → s.params.chipPresent = true →
    ∃ t, exec (.read a d) s = .next t ∧
      t = { s with
        cmdAddr := a, cmdData := d, dir := .input, sr := a, al := a, ser := a.getLsbD 0,
        rclk := true, srclk := false, ceN := true, oeN := true, rdata := memRead s (cell a),
        trace := s.trace ++ readEvents s.params s.dir a (memRead s (cell a)) } ∧
      response (.read a d) t = some (memRead s (cell a))

/-- 42_controller.md R170, 20_memory.md R74: READ with no chip completes the same, and its result is
free: each line's level is a fresh free value (assumption log 2). -/
def Obligations.ReadWithNoChipIsFree : Prop :=
  ∀ (a : Addr) (d : Byte) (s : State), Ready s → s.params.chipPresent = false →
    ∃ b : Byte,
      exec (.read a d) s = .next { s with
        cmdAddr := a, cmdData := d, dir := .input, sr := a, al := a, ser := a.getLsbD 0,
        rclk := true, srclk := false, ceN := true, oeN := true, rdata := b,
        draws := s.draws + 8, trace := s.trace ++ readEvents s.params s.dir a b } ∧
      ∀ i : Fin 8,
        b.getLsbD i.val = (Config.freeByte (s.draws + (7 - i.val))).getLsbD i.val

/-- 42_controller.md R171 to R181, 20_memory.md R73 to R75, 30_encoding.md R92: WRITE, with and without
a chip that commits, and with and without write step 10. -/
def Obligations.WriteStoresTheByte : Prop :=
  ∀ (a : Addr) (v : Byte) (s : State), Ready s →
    exec (.write a v) s = .next { s with
      cmdAddr := a, cmdData := v, dir := .output, sr := a, al := a, ser := a.getLsbD 0,
      rclk := true, srclk := false, ceN := true, weN := true, oeN := !s.params.oeReassert,
      dout := v,
      mem := if s.params.chipPresent && s.params.chipCommits then (memWrite (cell a) v s).mem
        else s.mem,
      trace := s.trace ++ writeEvents s.params s.dir a v }

/-- 42_controller.md R164, R166, R167, R169: the numbered steps of READ, at each position. -/
def Obligations.ReadStepsAtTheirPositions : Prop :=
  ∀ s : State,
    (s.seq = .rd1 → s.dir = .output → s.ceN = true → s.weN = true →
      seqStep s = .next { s with dir := .input, seq := .rd2, trace := s.trace ++ [.dir .input] }) ∧
    (s.seq = .rd1 → s.dir = .input → seqStep s = .next { s with seq := .rd2 }) ∧
    (s.seq = .rd3 → s.dir = .input → s.weN = true →
      seqStep s = .next { s with
        ceN := false, oeN := false, seq := .rd4,
        trace := s.trace ++ [.pin .ceN false, .pin .oeN false] }) ∧
    (s.seq = .rd4 → s.dir = .input → s.weN = true →
      seqStep s = .next { s with seq := .rd5, trace := s.trace ++ [.wait s.params.tOeValid] }) ∧
    (s.seq = .rd6 → s.dir = .input → s.weN = true →
      seqStep s = .next { s with
        ceN := true, oeN := true, seq := .idle,
        trace := s.trace ++ [.pin .ceN true, .pin .oeN true, .wait s.params.tSettle] })

/-- 42_controller.md R172, R173, R175, R176, R178, R180: steps of WRITE, at each position. -/
def Obligations.WriteStepsAtTheirPositions : Prop :=
  ∀ s : State,
    (s.seq = .wr1 → s.dir = .input → s.ceN = true → s.weN = true →
      seqStep s = .next { s with dir := .output, seq := .wr2, trace := s.trace ++ [.dir .output] }) ∧
    (s.seq = .wr1 → s.dir = .output → seqStep s = .next { s with seq := .wr2 }) ∧
    (s.seq = .wr2 → s.ceN = true → s.weN = true →
      seqStep s = .next { s with
        oeN := true, seq := .wr3,
        trace := s.trace ++ [.pin .oeN true, .wait s.params.tSettle] }) ∧
    (s.seq = .wr4 → s.oeN = true → s.weN = true →
      seqStep s = .next { s with
        ceN := false, seq := .wr5,
        trace := s.trace ++ [.pin .ceN false, .wait s.params.tSettle] }) ∧
    (s.seq = .wr5 → s.oeN = true →
      seqStep s = .next { s with
        weN := false, seq := .wr6,
        trace := s.trace ++ [.pin .weN false, .wait s.params.tSettle] }) ∧
    (s.seq = .wr7 → s.oeN = true →
      seqStep s = .next { s with seq := .wr8, trace := s.trace ++ [.wait s.params.tWp] }) ∧
    (s.seq = .wr9 → s.oeN = true → s.weN = true →
      seqStep s = .next { s with
        ceN := true, seq := .wr10,
        trace := s.trace ++ [.pin .ceN true, .wait s.params.tSettle] })

/-- 42_controller.md R181: write step 10 by the parameter, whose default is true; nothing contends. -/
def Obligations.WriteStepTenFollowsTheParameter : Prop :=
  ({} : Params).oeReassert = true ∧
  ∀ s : State, s.seq = .wr10 → s.ceN = true → s.weN = true →
    (s.params.oeReassert = true →
      seqStep s = .next { s with oeN := false, seq := .idle, trace := s.trace ++ [.pin .oeN false] } ∧
      contention { s with oeN := false } = false) ∧
    (s.params.oeReassert = false → seqStep s = .next { s with seq := .idle })

/-- 20_memory.md R78, 95_test_vectors.md S2: a written byte is read back, through any operand that
reaches the same cell, and a READ of another cell still finds what it held. -/
def Obligations.WriteThenReadReturnsTheByte : Prop :=
  ∀ (a b : Addr) (v d : Byte) (s : State), Ready s → MemWf s → s.params.chipPresent = true →
    s.params.chipCommits = true →
    ∃ t u, exec (.write a v) s = .next t ∧ exec (.read b d) t = .next u ∧
      u.rdata = if cell b = cell a then v else memRead s (cell b)

/-! ## Frames -/

/-- The four sub-operations write only what R121, R141, R145, R148 name; no byte of MEM changes. -/
def Obligations.FrameOfSubOperations : Prop :=
  ∀ (a : Addr) (d : Byte) (s t : State),
    (exec (.latch a d) s = .next t →
      t = { s with sr := t.sr, al := t.al, ser := t.ser, rclk := t.rclk, srclk := t.srclk,
                   trace := t.trace } ∧ ∀ x, memRead t x = memRead s x) ∧
    (exec (.setdir a d) s = .next t →
      t = { s with dir := t.dir, trace := t.trace } ∧ ∀ x, memRead t x = memRead s x) ∧
    (exec (.drive a d) s = .next t →
      t = { s with dout := t.dout, trace := t.trace } ∧ ∀ x, memRead t x = memRead s x) ∧
    (exec (.sample a d) s = .next t →
      t = { s with rdata := t.rdata, draws := t.draws, trace := t.trace } ∧
        ∀ x, memRead t x = memRead s x)

/-- 42_controller.md R162, R163: INIT and READ leave all else alone, every byte of MEM included. -/
def Obligations.FrameOfInitAndRead : Prop :=
  ∀ (a : Addr) (d : Byte) (s t : State),
    (exec (.init a d) s = .next t →
      t = { s with cmdAddr := a, cmdData := d, dir := t.dir, ceN := t.ceN, oeN := t.oeN,
                   weN := t.weN, srclk := t.srclk, ser := t.ser, rclk := t.rclk,
                   inited := t.inited, trace := t.trace } ∧
      ∀ x, memRead t x = memRead s x) ∧
    (exec (.read a d) s = .next t →
      t = { s with cmdAddr := a, cmdData := d, dir := t.dir, sr := t.sr, al := t.al, ser := t.ser,
                   rclk := t.rclk, srclk := t.srclk, ceN := t.ceN, oeN := t.oeN, rdata := t.rdata,
                   draws := t.draws, trace := t.trace } ∧
      ∀ x, memRead t x = memRead s x)

/-- 42_controller.md R171, 20_memory.md R73: WRITE stores to the cell the address pins select, which is
`cell` of its operand, and to no other; `RDATA` and the rest are left alone. -/
def Obligations.FrameOfWrite : Prop :=
  ∀ (a : Addr) (v : Byte) (s t : State), exec (.write a v) s = .next t →
    t = { s with cmdAddr := a, cmdData := v, dir := t.dir, oeN := t.oeN, rclk := t.rclk,
                 srclk := t.srclk, ser := t.ser, sr := t.sr, al := t.al, ceN := t.ceN,
                 weN := t.weN, dout := t.dout, mem := t.mem, trace := t.trace } ∧
    addressPins t = cell a ∧
    ∀ x, x ≠ addressPins t → memRead t x = memRead s x

/-- 10_state.md R41, R42, R44: no step changes the parameters or the FAULT mark or clears INITED; the
trace only grows; a step at `IDLE` takes at most one move, and one in flight takes none. -/
def Obligations.BookkeepingIsKept : Prop :=
  ∀ s t : State, step s = .next t →
    t.params = s.params ∧ t.faultMark = s.faultMark ∧ (s.inited = true → t.inited = true) ∧
    s.trace <+: t.trace ∧ t.port = if s.seq = .idle then s.port.tail else s.port

/-! ## Traces, waits and hazards -/

/-- 42_controller.md R162, R163, R171, 70_reset_and_hazards.md R253: the number of events. -/
def Obligations.EventCounts : Prop :=
  ∀ (a : Addr) (d : Byte) (s t : State),
    (exec (.init a d) s = .next t → t.trace.length = s.trace.length + 7) ∧
    (Ready s → exec (.read a d) s = .next t →
      t.trace.length = s.trace.length + if s.dir = .output then 65 else 64) ∧
    (Ready s → exec (.write a d) s = .next t →
      t.trace.length = s.trace.length + (if s.dir = .output then 70 else 71) +
        if s.params.oeReassert then 1 else 0)

/-- 70_reset_and_hazards.md R241, R252: the least durations, as the sums of the requested waits. -/
def Obligations.LeastDurations : Prop :=
  ∀ (a : Addr) (d : Byte) (s t : State) (es : List Event), t.trace = s.trace ++ es →
    (exec (.init a d) s = .next t → leastTime es = 0) ∧
    (Ready s → exec (.read a d) s = .next t →
      leastTime es = s.params.tOeValid + s.params.tSettle) ∧
    (Ready s → exec (.write a d) s = .next t → leastTime es = 6 * s.params.tSettle + s.params.tWp)

/-- 70_reset_and_hazards.md R242: in every run of accepted commands, from the first event of the first
INIT on, there is no moment with `DIR = OUTPUT`, `CE_n = 0` and `OE_n = 0`; and every such run
completes, from every idle state, whatever its lines hold. -/
def Obligations.RunsNeverContend : Prop :=
  ∀ (a : Addr) (d : Byte) (cs : List Instr) (s : State), s.seq = .idle →
    (∀ c ∈ cs, c.isCommand = true) →
    ∃ t es, execAll (.init a d :: cs) s = .next t ∧ t.trace = s.trace ++ es ∧
      ∀ l ∈ (s.lines.moments es).tail, ¬(l.dir = .output ∧ l.ceN = false ∧ l.oeN = false)

/-- 70_reset_and_hazards.md R243, 42_controller.md R183: no moment of a run after INIT has `OE_n = 0`
and `WE_n = 0`. -/
def Obligations.RunsNeverOverlap : Prop :=
  ∀ (cs : List Instr) (s : State), Ready s → (∀ c ∈ cs, c.isCommand = true) →
    ∃ t es, execAll cs s = .next t ∧ t.trace = s.trace ++ es ∧
      ∀ l ∈ s.lines.moments es, ¬(l.oeN = false ∧ l.weN = false)

/-- 70_reset_and_hazards.md R244, 42_controller.md R176 to R179: in a WRITE write-enable is low once,
for at least `T_SETTLE + T_WP`, at least `T_WP` of it after the last bit is driven, and throughout it
the chip is selected, output-enable is high, CORE drives and the register clock does not move. -/
def Obligations.WritePulseIsClean : Prop :=
  ∀ (a : Addr) (v : Byte) (s t : State) (es : List Event), Ready s → exec (.write a v) s = .next t →
    t.trace = s.trace ++ es →
    (∃ pre post, es = pre ++ .pin .weN false :: .wait s.params.tSettle :: (driveEvents v ++
        .wait s.params.tWp :: .pin .weN true :: post) ∧
      (∀ x, Event.pin .weN x ∉ pre) ∧ (∀ x, Event.pin .weN x ∉ post)) ∧
    (∀ l ∈ s.lines.moments es, l.weN = false →
      l.ceN = false ∧ l.oeN = true ∧ l.dir = .output ∧ l.rclk = true)

/-- 70_reset_and_hazards.md R249: a command switches the direction only with the chip deselected. -/
def Obligations.DirectionSwitchesOnlyDeselected : Prop :=
  ∀ (i : Instr) (s t : State) (p q : List Event) (d : Dir), i.isCommand = true → Ready s →
    exec i s = .next t → t.trace = s.trace ++ (p ++ .dir d :: q) → (s.lines.afterAll p).ceN = true

/-- 42_controller.md R182, 20_memory.md R74, R75: WRITE leaves CORE the same whatever the chip does: its
registers, lines and events do not depend on MEM, on a chip being there or on its committing. -/
def Obligations.CoreCannotTellIfTheChipCommits : Prop :=
  ∀ (a : Addr) (v : Byte) (s t : State) (m : Memory) (present commits : Bool), Ready s →
    exec (.write a v) s = .next t →
    ∃ m', exec (.write a v)
        { s with mem := m,
                 params := { s.params with chipPresent := present, chipCommits := commits } } =
        .next { t with mem := m',
                       params := { t.params with chipPresent := present, chipCommits := commits } } ∧
      ((present && commits) = false → m' = m)

/-! ## Reset and invariants -/

/-- 10_state.md R42, 70_reset_and_hazards.md R230, 00_scope.md R6: what the spec fixes of power-up, and
that the default times are legal ones; the erased cells are the launch premise of assumption log 3. -/
def Obligations.PowerUpState : Prop :=
  State.reset.seq = .idle ∧ State.reset.inited = false ∧ State.reset.faultMark = none ∧
    State.reset.trace = [] ∧ State.reset.params.legal = true ∧
    ∀ x, memRead State.reset x = 0xFF#8

/-- The run invariant holds at power-up. -/
def Obligations.RunInvariantAtReset : Prop := RunInv State.reset

/-- 10_state.md R45, 70_reset_and_hazards.md R233: every step keeps the idle invariants, the canonical
form of MEM and HOST's part. -/
def Obligations.RunInvariantIsKept : Prop :=
  ∀ s t : State, RunInv s → step s = .next t → RunInv t

/-- 20_memory.md R60: every step from every state, also in the middle of a command, keeps the canonical
form of MEM. -/
def Obligations.MemoryStaysCanonical : Prop :=
  ∀ s t : State, MemWf s → step s = .next t → MemWf t

/-- 60_exceptions.md R200, R202: in a run no step faults, a step is refused only for a word that is no
command or for a command before INIT, and every accepted command completes. -/
def Obligations.RunsNeverFault : Prop :=
  ∀ s : State, RunInv s →
    (∀ f, step s ≠ .fault f) ∧
    (∀ r, step s = .refused r → r = .reservedOp ∨ r = .internalOp ∨ r = .notInitialised) ∧
    (∀ (m : Move) (rest : List Move) (i : Instr), s.port = m :: rest → decodeHost m.word = .ok i →
      (s.inited = true ∨ i.op = 0b000#3) → ∃ t, step s = .next t)

/-- 20_memory.md R78: on the idealised chip a READ after any program of commands returns the byte of the
latest earlier WRITE to its cell, or the initial content when there is none; every program completes. -/
def Obligations.ProgramsSeeTheLatestWrite : Prop :=
  ∀ (cs : List Instr) (s : State), Ready s → MemWf s → s.params.chipPresent = true →
    s.params.chipCommits = true → (∀ c ∈ cs, c.isCommand = true) →
    ∃ t, execAll cs s = .next t ∧
      (∀ x, memRead t x = lastWritten x (memRead s x) cs) ∧
      ∀ (b : Addr) (d : Byte), ∃ u, exec (.read b d) t = .next u ∧
        u.rdata = lastWritten (cell b) (memRead s (cell b)) cs

/-! ## The FAULT mark -/

/-- 10_state.md R41, 00_scope.md R13: every fault, of an operation or of a step, leaves a state whose FAULT
mark holds its verdict, with the trace so far kept, and a step from that state answers the same fault
again. The fault outcome that carries this state is the model's form (assumption log 10). -/
def Obligations.EveryFaultSetsTheMark : Prop :=
  (∀ (i : Instr) (s : State) (f : Fault), exec i s = .fault f →
    f.left.faultMark = some f.verdict ∧ s.trace <+: f.left.trace ∧ step f.left = .fault f) ∧
  (∀ (s : State) (f : Fault), step s = .fault f →
    f.left.faultMark = some f.verdict ∧ s.trace <+: f.left.trace ∧ step f.left = .fault f)
end

