-- ==== Sys2Proof/Laws/State.lean ====
section
/-! SUPPORT. What the named updates of the state leave in each field: one lemma per field per update. -/

namespace Sys2Proof.Machine

variable (s : State)

section emit
variable (e : Event)

@[simp] theorem emit_sr : (emit e s).sr = s.sr := rfl
@[simp] theorem emit_al : (emit e s).al = s.al := rfl
@[simp] theorem emit_dout : (emit e s).dout = s.dout := rfl
@[simp] theorem emit_rdata : (emit e s).rdata = s.rdata := rfl
@[simp] theorem emit_cmdAddr : (emit e s).cmdAddr = s.cmdAddr := rfl
@[simp] theorem emit_cmdData : (emit e s).cmdData = s.cmdData := rfl
@[simp] theorem emit_rclk : (emit e s).rclk = s.rclk := rfl
@[simp] theorem emit_srclk : (emit e s).srclk = s.srclk := rfl
@[simp] theorem emit_ser : (emit e s).ser = s.ser := rfl
@[simp] theorem emit_ceN : (emit e s).ceN = s.ceN := rfl
@[simp] theorem emit_oeN : (emit e s).oeN = s.oeN := rfl
@[simp] theorem emit_weN : (emit e s).weN = s.weN := rfl
@[simp] theorem emit_dir : (emit e s).dir = s.dir := rfl
@[simp] theorem emit_seq : (emit e s).seq = s.seq := rfl
@[simp] theorem emit_mem : (emit e s).mem = s.mem := rfl
@[simp] theorem emit_trace : (emit e s).trace = s.trace ++ [e] := rfl
@[simp] theorem emit_faultMark : (emit e s).faultMark = s.faultMark := rfl
@[simp] theorem emit_inited : (emit e s).inited = s.inited := rfl
@[simp] theorem emit_port : (emit e s).port = s.port := rfl
@[simp] theorem emit_draws : (emit e s).draws = s.draws := rfl
@[simp] theorem emit_params : (emit e s).params = s.params := rfl

end emit

section mark
variable (v : Verdict)

@[simp] theorem mark_sr : (mark v s).sr = s.sr := rfl
@[simp] theorem mark_al : (mark v s).al = s.al := rfl
@[simp] theorem mark_dout : (mark v s).dout = s.dout := rfl
@[simp] theorem mark_rdata : (mark v s).rdata = s.rdata := rfl
@[simp] theorem mark_cmdAddr : (mark v s).cmdAddr = s.cmdAddr := rfl
@[simp] theorem mark_cmdData : (mark v s).cmdData = s.cmdData := rfl
@[simp] theorem mark_rclk : (mark v s).rclk = s.rclk := rfl
@[simp] theorem mark_srclk : (mark v s).srclk = s.srclk := rfl
@[simp] theorem mark_ser : (mark v s).ser = s.ser := rfl
@[simp] theorem mark_ceN : (mark v s).ceN = s.ceN := rfl
@[simp] theorem mark_oeN : (mark v s).oeN = s.oeN := rfl
@[simp] theorem mark_weN : (mark v s).weN = s.weN := rfl
@[simp] theorem mark_dir : (mark v s).dir = s.dir := rfl
@[simp] theorem mark_seq : (mark v s).seq = s.seq := rfl
@[simp] theorem mark_mem : (mark v s).mem = s.mem := rfl
@[simp] theorem mark_trace : (mark v s).trace = s.trace := rfl
@[simp] theorem mark_faultMark : (mark v s).faultMark = some v := rfl
@[simp] theorem mark_inited : (mark v s).inited = s.inited := rfl
@[simp] theorem mark_port : (mark v s).port = s.port := rfl
@[simp] theorem mark_draws : (mark v s).draws = s.draws := rfl
@[simp] theorem mark_params : (mark v s).params = s.params := rfl

end mark

section memWrite
variable (a : CellAddr) (v : Byte)

@[simp] theorem memWrite_sr : (memWrite a v s).sr = s.sr := rfl
@[simp] theorem memWrite_al : (memWrite a v s).al = s.al := rfl
@[simp] theorem memWrite_dout : (memWrite a v s).dout = s.dout := rfl
@[simp] theorem memWrite_rdata : (memWrite a v s).rdata = s.rdata := rfl
@[simp] theorem memWrite_cmdAddr : (memWrite a v s).cmdAddr = s.cmdAddr := rfl
@[simp] theorem memWrite_cmdData : (memWrite a v s).cmdData = s.cmdData := rfl
@[simp] theorem memWrite_rclk : (memWrite a v s).rclk = s.rclk := rfl
@[simp] theorem memWrite_srclk : (memWrite a v s).srclk = s.srclk := rfl
@[simp] theorem memWrite_ser : (memWrite a v s).ser = s.ser := rfl
@[simp] theorem memWrite_ceN : (memWrite a v s).ceN = s.ceN := rfl
@[simp] theorem memWrite_oeN : (memWrite a v s).oeN = s.oeN := rfl
@[simp] theorem memWrite_weN : (memWrite a v s).weN = s.weN := rfl
@[simp] theorem memWrite_dir : (memWrite a v s).dir = s.dir := rfl
@[simp] theorem memWrite_seq : (memWrite a v s).seq = s.seq := rfl
@[simp] theorem memWrite_mem : (memWrite a v s).mem = Memory.write (unlisted s.params) s.mem a.toNat v := rfl
@[simp] theorem memWrite_trace : (memWrite a v s).trace = s.trace := rfl
@[simp] theorem memWrite_faultMark : (memWrite a v s).faultMark = s.faultMark := rfl
@[simp] theorem memWrite_inited : (memWrite a v s).inited = s.inited := rfl
@[simp] theorem memWrite_port : (memWrite a v s).port = s.port := rfl
@[simp] theorem memWrite_draws : (memWrite a v s).draws = s.draws := rfl
@[simp] theorem memWrite_params : (memWrite a v s).params = s.params := rfl

end memWrite

section takeMove

@[simp] theorem takeMove_sr : (takeMove s).sr = s.sr := rfl
@[simp] theorem takeMove_al : (takeMove s).al = s.al := rfl
@[simp] theorem takeMove_dout : (takeMove s).dout = s.dout := rfl
@[simp] theorem takeMove_rdata : (takeMove s).rdata = s.rdata := rfl
@[simp] theorem takeMove_cmdAddr : (takeMove s).cmdAddr = s.cmdAddr := rfl
@[simp] theorem takeMove_cmdData : (takeMove s).cmdData = s.cmdData := rfl
@[simp] theorem takeMove_rclk : (takeMove s).rclk = s.rclk := rfl
@[simp] theorem takeMove_srclk : (takeMove s).srclk = s.srclk := rfl
@[simp] theorem takeMove_ser : (takeMove s).ser = s.ser := rfl
@[simp] theorem takeMove_ceN : (takeMove s).ceN = s.ceN := rfl
@[simp] theorem takeMove_oeN : (takeMove s).oeN = s.oeN := rfl
@[simp] theorem takeMove_weN : (takeMove s).weN = s.weN := rfl
@[simp] theorem takeMove_dir : (takeMove s).dir = s.dir := rfl
@[simp] theorem takeMove_seq : (takeMove s).seq = s.seq := rfl
@[simp] theorem takeMove_mem : (takeMove s).mem = s.mem := rfl
@[simp] theorem takeMove_trace : (takeMove s).trace = s.trace := rfl
@[simp] theorem takeMove_faultMark : (takeMove s).faultMark = s.faultMark := rfl
@[simp] theorem takeMove_inited : (takeMove s).inited = s.inited := rfl
@[simp] theorem takeMove_port : (takeMove s).port = s.port.tail := rfl
@[simp] theorem takeMove_draws : (takeMove s).draws = s.draws := rfl
@[simp] theorem takeMove_params : (takeMove s).params = s.params := rfl

end takeMove

section offer
variable (m : Move)

@[simp] theorem offer_sr : (offer m s).sr = s.sr := rfl
@[simp] theorem offer_al : (offer m s).al = s.al := rfl
@[simp] theorem offer_dout : (offer m s).dout = s.dout := rfl
@[simp] theorem offer_rdata : (offer m s).rdata = s.rdata := rfl
@[simp] theorem offer_cmdAddr : (offer m s).cmdAddr = s.cmdAddr := rfl
@[simp] theorem offer_cmdData : (offer m s).cmdData = s.cmdData := rfl
@[simp] theorem offer_rclk : (offer m s).rclk = s.rclk := rfl
@[simp] theorem offer_srclk : (offer m s).srclk = s.srclk := rfl
@[simp] theorem offer_ser : (offer m s).ser = s.ser := rfl
@[simp] theorem offer_ceN : (offer m s).ceN = s.ceN := rfl
@[simp] theorem offer_oeN : (offer m s).oeN = s.oeN := rfl
@[simp] theorem offer_weN : (offer m s).weN = s.weN := rfl
@[simp] theorem offer_dir : (offer m s).dir = s.dir := rfl
@[simp] theorem offer_seq : (offer m s).seq = .idle := rfl
@[simp] theorem offer_mem : (offer m s).mem = s.mem := rfl
@[simp] theorem offer_trace : (offer m s).trace = s.trace := rfl
@[simp] theorem offer_faultMark : (offer m s).faultMark = s.faultMark := rfl
@[simp] theorem offer_inited : (offer m s).inited = s.inited := rfl
@[simp] theorem offer_port : (offer m s).port = m :: s.port := rfl
@[simp] theorem offer_draws : (offer m s).draws = s.draws := rfl
@[simp] theorem offer_params : (offer m s).params = s.params := rfl

end offer

end Sys2Proof.Machine
end

