-- ==== Sys2Proof/Laws/Ops.lean ====
section
/-! SUPPORT. The shared operations: sequencing, one action under the verdicts, and the shift-out. -/

namespace Sys2Proof.Machine

@[simp] theorem andThen_next (s : State) (f : State → Result) : andThen (.next s) f = f s := rfl
@[simp] theorem andThen_fault (e : Fault) (f : State → Result) : andThen (.fault e) f = .fault e := rfl
@[simp] theorem andThen_refused (e : Refusal) (f : State → Result) :
    andThen (.refused e) f = .refused e := rfl

@[simp] theorem fault_left (v : Verdict) (s : State) : (v.fault s).left = s := by cases v <;> rfl
@[simp] theorem fault_verdict (v : Verdict) (s : State) : (v.fault s).verdict = v := by cases v <;> rfl

@[simp] theorem andThen_raise (v : Verdict) (s : State) (f : State → Result) :
    andThen (raise v s) f = raise v s := rfl
@[simp] theorem raise_ne_next (v : Verdict) (s t : State) : raise v s ≠ .next t := nofun
@[simp] theorem raise_ne_refused (v : Verdict) (s : State) (r : Refusal) : raise v s ≠ .refused r := nofun

/-- A verdict leaves the state it was given with the mark set. -/
theorem raise_eq_fault (v : Verdict) (s : State) (f : Fault) :
    raise v s = .fault f ↔ f = v.fault (mark v s) := by
  rw [raise, Host.Outcome.fault.injEq, eq_comm]

/-- Marking again with the verdict that is marked changes nothing. -/
theorem mark_eq_self (v : Verdict) (s : State) (h : s.faultMark = some v) : mark v s = s := by
  rw [mark, ← h]

theorem andThen_assoc (r : Result) (f g : State → Result) :
    andThen (andThen r f) g = andThen r fun s => andThen (f s) g := by
  cases r <;> rfl

/-- A sequence faults in its first part or, after it, in its second. -/
theorem andThen_eq_fault (r : Result) (f : State → Result) (e : Fault) :
    andThen r f = .fault e ↔ r = .fault e ∨ ∃ u, r = .next u ∧ f u = .fault e := by
  cases r <;> simp [andThen]

/-- Where a sequence answers a next state, both of its parts do. -/
theorem andThen_eq_next (r : Result) (f : State → Result) (t : State) :
    andThen r f = .next t ↔ ∃ u, r = .next u ∧ f u = .next t := by
  cases r <;> simp [andThen]

@[simp] theorem run_nil (s : State) : run [] s = .next s := rfl
theorem run_cons (a : Action) (as : List Action) (s : State) :
    run (a :: as) s = andThen (act a s) (run as) := rfl

theorem run_append (as bs : List Action) (s : State) :
    run (as ++ bs) s = andThen (run as s) (run bs) := by
  induction as generalizing s with
  | nil => rfl
  | cons a as ih =>
    rw [List.cons_append, run_cons, run_cons, andThen_assoc]
    congr 1
    funext u
    exact ih u

/-- All that one action can do when it answers a next state. -/
theorem act_eq_next (a : Action) (s t : State) :
    act a s = .next t ↔
      violation s = none ∧ unmodelled a s = false ∧ violation (a.apply s) = none ∧ t = a.apply s := by
  unfold act
  cases hv : violation s with
  | some v => simp
  | none =>
    cases hu : unmodelled a s with
    | true => simp
    | false => cases hw : violation (a.apply s) <;> simp [eq_comm, raise]

/-- All that one action can do when it faults: the verdict is that of the lines before it, or of the
lines it made. -/
theorem act_eq_fault (a : Action) (s : State) (f : Fault) (h : act a s = .fault f) :
    ∃ v u, f = v.fault (mark v u) ∧ violation u = some v ∧ (u = s ∨ u = a.apply s) := by
  unfold act at h
  split at h
  · rename_i v hv
    exact ⟨v, s, (raise_eq_fault v s f).1 h, hv, .inl rfl⟩
  · split at h
    · simp at h
    · split at h
      · rename_i v hv
        exact ⟨v, a.apply s, (raise_eq_fault v _ f).1 h, hv, .inr rfl⟩
      · simp at h

/-- An action on lines that stand well before and after it, outside the waveforms of 20_memory.md R77. -/
theorem act_ok (a : Action) (s : State) (hv : violation s = none) (hu : unmodelled a s = false)
    (hw : violation (a.apply s) = none) : act a s = .next (a.apply s) :=
  (act_eq_next a s _).2 ⟨hv, hu, hw, rfl⟩

/-- What every action of a list keeps, the list keeps. -/
theorem run_keeps (P : State → Prop) (as : List Action)
    (h : ∀ a ∈ as, ∀ s t, act a s = .next t → P s → P t) (s t : State) (hr : run as s = .next t)
    (hs : P s) : P t := by
  induction as generalizing s with
  | nil =>
    cases hr
    exact hs
  | cons a as ih =>
    obtain ⟨u, hu, hut⟩ := (andThen_eq_next _ _ _).1 hr
    exact ih (fun b hb => h b (List.mem_cons_of_mem a hb)) u hut
      (h a (List.mem_cons_self ..) s u hu hs)

/-- The lines stand well when neither forbidden state holds. -/
theorem violation_eq_none (s : State) :
    violation s = none ↔ oeWeLow s = false ∧ contention s = false := by
  cases ho : oeWeLow s <;> cases hc : contention s <;> simp [violation, ho, hc]

/-- The verdict on the lines depends on four of them and on the chip being there. -/
theorem violation_congr (s t : State) (hd : t.dir = s.dir) (hc : t.ceN = s.ceN) (ho : t.oeN = s.oeN)
    (hw : t.weN = s.weN) (hp : t.params = s.params) : violation t = violation s := by
  simp [violation, oeWeLow, contention, coreDrives, chipDrives, hd, hc, ho, hw, hp]

/-- With write-enable high and the chip deselected the lines stand well. -/
theorem violation_deselected (s : State) (hc : s.ceN = true) (hw : s.weN = true) :
    violation s = none := by
  simp [violation, oeWeLow, contention, chipDrives, hc, hw]

/-- With the bus at INPUT and write-enable high the lines stand well. -/
theorem violation_listening (s : State) (hd : s.dir = .input) (hw : s.weN = true) :
    violation s = none := by
  simp [violation, oeWeLow, contention, coreDrives, hd, hw]

/-- With output-enable high the lines stand well. -/
theorem violation_oeHigh (s : State) (ho : s.oeN = true) : violation s = none := by
  simp [violation, oeWeLow, contention, chipDrives, ho]

/-- Evaluating the bus moves nothing but the count of free values. -/
theorem busByte_eq (s : State) : (busByte s).2 = { s with draws := (busByte s).2.draws } := by
  simp only [busByte]
  split <;> rfl

/-- The commit moves nothing but MEM and the count of free values. -/
theorem commit_eq (s : State) :
    commit s = { s with mem := (commit s).mem, draws := (commit s).draws } := by
  simp only [commit]
  split
  · rw [memWrite, busByte_eq]
  · rfl

/-- A rise of write-enable with the chip selected, as one update. -/
theorem writePin_weN_rise (s : State) (hw : s.weN = false) (hc : s.ceN = false) :
    writePin .weN true s = { s with
      mem := (commit s).mem, draws := (commit s).draws, weN := true } := by
  have h : writePin .weN true s = { commit s with weN := true } := by
    simp only [writePin]
    rw [if_pos (by simp [hw, hc])]
  exact h.trans (congrArg (fun u : State => { u with weN := true }) (commit_eq s))

@[simp] theorem apply_wait (n : Nat) (s : State) : (Action.wait n).apply s = emit (.wait n) s := rfl

/-- A wait on lines that stand well makes its event and nothing else. -/
theorem act_wait (n : Nat) (s : State) (hv : violation s = none) :
    act (.wait n) s = .next (emit (.wait n) s) :=
  act_ok _ s hv rfl hv

/-- One shift-clock pulse takes one bit into the shift stage (10_state.md R25). -/
theorem run_shiftPulse (b : Level) (s : State) (hv : violation s = none) (hc : s.srclk = false) :
    run (shiftPulse b) s = .next { s with
      ser := b, sr := shiftIn s.sr b, srclk := false, trace := s.trace ++ pulseEvents b } := by
  have h1 := act_ok (.pin .ser b) s hv rfl hv
  have h2 := act_ok (.pin .srclk true) ((Action.pin .ser b).apply s) hv rfl hv
  have h3 := act_ok (.pin .srclk false) ((Action.pin .srclk true).apply ((Action.pin .ser b).apply s))
    hv rfl hv
  rw [shiftPulse, run_cons, h1, andThen_next, run_cons, h2, andThen_next, run_cons, h3]
  simp [Action.apply, writePin, emit, hc, pulseEvents]

/-- The shift stage after the bits of a byte, most significant bit first. -/
def shiftInByte (sr : Addr) (b : Byte) : Addr :=
  msbFirst.foldl (fun sr (i : Fin 8) => shiftIn sr (b.getLsbD i.val)) sr

/-- Shifting bits out, one pulse for each. -/
theorem run_shiftBits (b : Byte) (bits : List (Fin 8)) (s : State) (hv : violation s = none)
    (hc : s.srclk = false) :
    run (bits.flatMap fun (i : Fin 8) => shiftPulse (b.getLsbD i.val)) s = .next { s with
      ser := bits.foldl (fun _ (i : Fin 8) => b.getLsbD i.val) s.ser,
      sr := bits.foldl (fun sr (i : Fin 8) => shiftIn sr (b.getLsbD i.val)) s.sr,
      trace := s.trace ++ bits.flatMap fun (i : Fin 8) => pulseEvents (b.getLsbD i.val) } := by
  induction bits generalizing s with
  | nil => simp
  | cons i bits ih =>
    rw [List.flatMap_cons, run_append, run_shiftPulse _ s hv hc, andThen_next,
      ih { s with ser := b.getLsbD i, sr := shiftIn s.sr (b.getLsbD i), srclk := false,
                  trace := s.trace ++ pulseEvents (b.getLsbD i) } hv rfl]
    simp [← hc]

/-- `SHIFTOUT8(b)` of 40_address_latch.md R121. -/
theorem run_shiftOut8 (b : Byte) (s : State) (hv : violation s = none) (hc : s.srclk = false) :
    run (shiftOut8 b) s = .next { s with
      ser := b.getLsbD 0, sr := shiftInByte s.sr b,
      trace := s.trace ++ msbFirst.flatMap fun (i : Fin 8) => pulseEvents (b.getLsbD i.val) } := by
  rw [shiftOut8, run_shiftBits b msbFirst s hv hc]
  rfl

/-- One shift, bit by bit (10_state.md R25). -/
theorem getLsbD_shiftIn (sr : Addr) (b : Level) (i : Nat) :
    (shiftIn sr b).getLsbD i = if i = 0 then b else decide (i < 16) && sr.getLsbD (i - 1) := by
  have h : (shiftIn sr b).getLsbD i =
      if i < 1 then (BitVec.ofBool b).getLsbD i else (sr.extractLsb' 0 15).getLsbD (i - 1) :=
    BitVec.getLsbD_append
  rw [h, BitVec.getLsbD_extractLsb']
  rcases i with _ | i
  · simp
  · have : i < 15 ↔ i + 1 < 16 := by omega
    simp [this]

/-- Sixteen shifts push out every old bit: what is left is the high byte above the low byte. -/
theorem shiftInByte_twice (sr : Addr) (a : Addr) :
    shiftInByte (shiftInByte sr (highByte a)) (lowByte a) = a := by
  apply BitVec.eq_of_getLsbD_eq
  intro i hi
  simp only [shiftInByte, msbFirst, List.foldl_cons, List.foldl_nil, getLsbD_shiftIn]
  rcases i with _ | _ | _ | _ | _ | _ | _ | _ | _ | _ | _ | _ | _ | _ | _ | _ | i
  all_goals simp [highByte, lowByte]

end Sys2Proof.Machine
end

