-- ==== Sys2Proof/Laws/Controller.lean ====
section
/-! SUPPORT. The sequencer and the step: all that each can do when it answers a next state. -/

namespace Sys2Proof.Machine

/-- A numbered step that moves on to position `q`. -/
theorem andThen_goto_eq_next (r : Result) (q : Seq) (t : State) :
    andThen r (goto q) = .next t ↔ ∃ u, r = .next u ∧ t = { u with seq := q } := by
  rw [andThen_eq_next]
  simp only [goto, Host.Outcome.next.injEq, eq_comm (a := t)]

/-- Acceptance (10_state.md R35). -/
theorem accept_eq_next (first : Seq) (addr : Addr) (data : Byte) (s t : State) :
    accept first addr data s = .next t ↔
      s.seq = .idle ∧ t = { s with cmdAddr := addr, cmdData := data, seq := first } := by
  by_cases h : s.seq = .idle <;> simp [accept, h, eq_comm]

/-- The guard of READ and WRITE (70_reset_and_hazards.md R232). -/
theorem needInited_eq_next (s t : State) :
    needInited s = .next t ↔ s.inited = true ∧ t = s := by
  by_cases h : s.inited = true <;> simp [needInited, h, eq_comm]

/-- SETDIR leaves the direction it was asked for, and at most one event (41_data_bus.md R141). -/
theorem setDir_eq_next (d : Dir) (s t : State) (h : setDir d s = .next t) :
    t = { s with dir := d, trace := if s.dir = d then s.trace else s.trace ++ [.dir d] } := by
  by_cases hd : s.dir = d
  · rw [setDir, if_pos hd] at h
    cases h
    simp [← hd]
  · rw [setDir, if_neg hd] at h
    obtain ⟨-, -, -, rfl⟩ := (act_eq_next _ _ _).1 h
    simp [Action.apply, emit, hd]

/-- At `IDLE` there is nothing left to run. -/
theorem finishWithin_idle (n : Nat) (s : State) (h : s.seq = .idle) : finishWithin n s = .next s := by
  cases n <;> simp [finishWithin, h]

/-- Elsewhere the step at `SEQ` runs first. -/
theorem finishWithin_succ (n : Nat) (s : State) (h : s.seq ≠ .idle) :
    finishWithin (n + 1) s = andThen (seqStep s) (finishWithin n) := by
  simp [finishWithin, h]

/-- A state that has the mark answers its fault and is left as it is (10_state.md R41). -/
theorem step_marked (s : State) (v : Verdict) (h : s.faultMark = some v) :
    step s = .fault (v.fault s) := by
  unfold step
  rw [h]
  exact (raise_eq_fault v s _).2 (by rw [mark_eq_self v s h])

/-- All that one step can do: idle, run the next move's operation, or run on to the return. -/
theorem step_eq_next (s t : State) (h : step s = .next t) :
    s.faultMark = none ∧
      ((s.seq = .idle ∧ s.port = [] ∧ t = s) ∨
        (s.seq = .idle ∧ ∃ m rest i, s.port = m :: rest ∧ m.decode = .ok i ∧
          exec i (takeMove s) = .next t) ∨
        (s.seq ≠ .idle ∧ finish s = .next t)) := by
  unfold step at h
  split at h
  · simp at h
  · rename_i hf
    refine ⟨hf, ?_⟩
    split at h
    · rename_i hs
      split at h
      · rename_i hp
        cases h
        exact .inl ⟨hs, hp, rfl⟩
      · rename_i m rest hp
        split at h
        · rename_i i hi
          exact .inr (.inl ⟨hs, m, rest, i, hp, hi, h⟩)
        · simp at h
    · rename_i hs
      exact .inr (.inr ⟨hs, h⟩)

end Sys2Proof.Machine
end

