-- ==== Sys2Proof/Laws/DataBus.lean ====
section
/-! SUPPORT. Bytes put together one line at a time, and what driving or sampling some of the lines
leaves (41_data_bus.md R145, R148). -/

namespace Sys2Proof.Machine

/-- All eight bits of `v`, least significant first, make `v`. -/
theorem setBit_lsbFirst (x v : Byte) :
    lsbFirst.foldl (fun x (i : Fin 8) => setBit x i (v.getLsbD i.val)) x = v := by
  apply BitVec.eq_of_getLsbD_eq
  intro i hi
  simp only [lsbFirst, List.foldl_cons, List.foldl_nil, setBit]
  rcases i with _ | _ | _ | _ | _ | _ | _ | _ | i <;> first | omega | simp

/-- All eight bits of `v`, most significant first, make `v`. -/
theorem setBit_msbFirst (x v : Byte) :
    msbFirst.foldl (fun x (i : Fin 8) => setBit x i (v.getLsbD i.val)) x = v := by
  apply BitVec.eq_of_getLsbD_eq
  intro i hi
  simp only [msbFirst, List.foldl_cons, List.foldl_nil, setBit]
  rcases i with _ | _ | _ | _ | _ | _ | _ | _ | i <;> first | omega | simp

/-- Writing some of the data lines on lines that stand well. -/
theorem run_drives (v : Byte) (bits : List (Fin 8)) (s : State) (hv : violation s = none) :
    run (bits.map fun (i : Fin 8) => .pin (.d i) (v.getLsbD i.val)) s = .next { s with
      dout := bits.foldl (fun x (i : Fin 8) => setBit x i (v.getLsbD i.val)) s.dout,
      trace := s.trace ++ bits.map fun (i : Fin 8) => .pin (.d i) (v.getLsbD i.val) } := by
  induction bits generalizing s with
  | nil => simp
  | cons i bits ih =>
    rw [List.map_cons, run_cons, act_ok _ _ hv rfl (by exact hv), andThen_next, ih _ (by exact hv)]
    simp [Action.apply, writePin, emit]

/-- Sampling some of the data lines while the bus is held at `v`. -/
theorem run_samples (v : Byte) (bits : List (Fin 8)) (s : State) (hv : violation s = none)
    (hb : bus s = .driven v) :
    run (bits.map .sample) s = .next { s with
      rdata := bits.foldl (fun x (i : Fin 8) => setBit x i (v.getLsbD i.val)) s.rdata,
      trace := s.trace ++ bits.map fun (i : Fin 8) => .sample i (v.getLsbD i.val) } := by
  induction bits generalizing s with
  | nil => simp
  | cons i bits ih =>
    have ha : (Action.sample i).apply s = { s with
        rdata := setBit s.rdata i (v.getLsbD i.val),
        trace := s.trace ++ [.sample i (v.getLsbD i.val)] } := by
      simp [Action.apply, level, busByte, hb, emit]
    rw [List.map_cons, run_cons, act_ok _ _ hv rfl (by rw [ha]; exact hv), andThen_next, ha,
      ih _ (by exact hv) (by exact hb)]
    simp

/-- Sampling one line while nobody drives takes one fresh free value (20_memory.md R71). -/
theorem act_sample_floating (i : Fin 8) (s : State) (hv : violation s = none)
    (hb : bus s = .floating) :
    act (.sample i) s = .next { s with
      rdata := setBit s.rdata i ((Config.freeByte s.draws).getLsbD i.val), draws := s.draws + 1,
      trace := s.trace ++ [.sample i ((Config.freeByte s.draws).getLsbD i.val)] } := by
  have ha : (Action.sample i).apply s = { s with
      rdata := setBit s.rdata i ((Config.freeByte s.draws).getLsbD i.val), draws := s.draws + 1,
      trace := s.trace ++ [.sample i ((Config.freeByte s.draws).getLsbD i.val)] } := by
    simp [Action.apply, level, busByte, hb, emit]
  rw [act_ok _ _ hv rfl (by rw [ha]; exact hv), ha]

end Sys2Proof.Machine
end

