-- ==== Sys2Proof/Laws/Decode.lean ====
section
/-! SUPPORT. The three fields of a command word, and the word put together from them (30_encoding.md R91). -/

namespace Sys2Proof

/-- Bit `j` of a word put together from its fields. -/
theorem getLsbD_word (o : BitVec 3) (a : Addr) (d : Byte) (j : Nat) :
    (o ++ a ++ d : Command).getLsbD j =
      if j < 8 then d.getLsbD j else if j - 8 < 16 then a.getLsbD (j - 8) else o.getLsbD (j - 24) := by
  have h1 : (o ++ a ++ d : Command).getLsbD j =
      if j < 8 then d.getLsbD j else (o ++ a : BitVec (3 + 16)).getLsbD (j - 8) :=
    BitVec.getLsbD_append
  have h2 : (o ++ a : BitVec (3 + 16)).getLsbD (j - 8) =
      if j - 8 < 16 then a.getLsbD (j - 8) else o.getLsbD (j - 8 - 16) := BitVec.getLsbD_append
  rw [h1, h2, show j - 8 - 16 = j - 24 by omega]

theorem opField_word (o : BitVec 3) (a : Addr) (d : Byte) : opField (o ++ a ++ d) = o := by
  apply BitVec.eq_of_getLsbD_eq
  intro i hi
  rw [opField, BitVec.getLsbD_extractLsb', getLsbD_word, if_neg (by omega), if_neg (by omega),
    show 24 + i - 24 = i by omega]
  simp [hi]

theorem addrField_word (o : BitVec 3) (a : Addr) (d : Byte) : addrField (o ++ a ++ d) = a := by
  apply BitVec.eq_of_getLsbD_eq
  intro i hi
  rw [addrField, BitVec.getLsbD_extractLsb', getLsbD_word, if_neg (by omega), if_pos (by omega),
    show 8 + i - 8 = i by omega]
  simp [hi]

theorem dataField_word (o : BitVec 3) (a : Addr) (d : Byte) : dataField (o ++ a ++ d) = d := by
  apply BitVec.eq_of_getLsbD_eq
  intro i hi
  rw [dataField, BitVec.getLsbD_extractLsb', getLsbD_word, if_pos (by omega)]
  simp [hi]

/-- Every word is put together from its own fields: format C leaves no bit out. -/
theorem word_of_fields (w : Command) : opField w ++ addrField w ++ dataField w = w := by
  apply BitVec.eq_of_getLsbD_eq
  intro i hi
  rw [getLsbD_word, opField, addrField, dataField]
  simp only [BitVec.getLsbD_extractLsb', Nat.zero_add]
  split
  · simp [*]
  · split
    · rw [show 8 + (i - 8) = i by omega]
      simp [*]
    · rw [show 24 + (i - 24) = i by omega, decide_eq_true (by omega : i - 24 < 3), Bool.true_and]

end Sys2Proof
end

