-- ==== Sys2Proof/Laws/Memory.lean ====
section
/-! SUPPORT. The EEPROM array: reading after writing, and that a write keeps the canonical form. -/

namespace Sys2Proof.Machine

theorem Memory.read_write_same (e : Byte) (m : Memory) (lo a : Nat) (v : Byte)
    (h : Memory.wfFrom e lo m = true) : Memory.read e (Memory.write e m a v) a = v := by
  induction m generalizing lo with
  | nil =>
    simp only [Memory.write]
    split <;> simp_all [Memory.read]
  | cons c rest ih =>
    obtain ⟨k, u⟩ := c
    simp only [Memory.wfFrom, Bool.and_eq_true, decide_eq_true_eq] at h
    obtain ⟨⟨⟨hk, -⟩, hu⟩, hr⟩ := h
    have erased : ∀ (m : Memory) (lo : Nat), Memory.wfFrom e lo m = true → a < lo →
        Memory.read e m a = e := by
      intro m
      induction m with
      | nil => simp [Memory.read]
      | cons c rest ih =>
        intro lo h hlt
        obtain ⟨k, u⟩ := c
        simp only [Memory.wfFrom, Bool.and_eq_true, decide_eq_true_eq] at h
        simp only [Memory.read]
        rw [if_neg (by omega), ih (k + 1) h.2 (by omega)]
    simp only [Memory.write]
    split
    · simp only [Memory.read]
      rw [if_neg (by omega), ih (k + 1) hr]
    · split
      · split
        · rename_i hka hv
          rw [erased rest (k + 1) hr (by omega), hv]
        · simp [Memory.read]
      · split
        · rename_i hlt hne hv
          simp only [Memory.read]
          rw [if_neg hne, erased rest (k + 1) hr (by omega), hv]
        · simp [Memory.read]

theorem Memory.read_write_other (e : Byte) (m : Memory) (a b : Nat) (v : Byte) (hab : b ≠ a) :
    Memory.read e (Memory.write e m a v) b = Memory.read e m b := by
  induction m with
  | nil =>
    simp only [Memory.write]
    split <;> simp [Memory.read, hab.symm]
  | cons c rest ih =>
    obtain ⟨k, u⟩ := c
    simp only [Memory.write]
    split
    · simp [Memory.read, ih]
    · split
      · rename_i hka
        split <;> simp [Memory.read, hka, hab.symm]
      · split <;> simp [Memory.read, hab.symm]

theorem Memory.write_wfFrom (e : Byte) (m : Memory) (lo a : Nat) (v : Byte) (hlo : lo ≤ a)
    (ha : a ≤ Config.maxAddr) (h : Memory.wfFrom e lo m = true) :
    Memory.wfFrom e lo (Memory.write e m a v) = true := by
  have weaken : ∀ (m : Memory) (lo lo' : Nat), lo ≤ lo' → Memory.wfFrom e lo' m = true →
      Memory.wfFrom e lo m = true := by
    intro m lo lo' hle hm
    cases m with
    | nil => rfl
    | cons c rest =>
      simp only [Memory.wfFrom, Bool.and_eq_true, decide_eq_true_eq] at hm ⊢
      exact ⟨⟨⟨by omega, hm.1.1.2⟩, hm.1.2⟩, hm.2⟩
  induction m generalizing lo with
  | nil =>
    simp only [Memory.write]
    split <;> simp_all [Memory.wfFrom]
  | cons c rest ih =>
    obtain ⟨k, u⟩ := c
    simp only [Memory.wfFrom, Bool.and_eq_true, decide_eq_true_eq] at h
    obtain ⟨⟨⟨hk, hkm⟩, hu⟩, hr⟩ := h
    simp only [Memory.write]
    split
    · simp only [Memory.wfFrom, Bool.and_eq_true, decide_eq_true_eq]
      exact ⟨⟨⟨hk, hkm⟩, hu⟩, ih (k + 1) (by omega) hr⟩
    · split
      · split
        · exact weaken rest lo (k + 1) (by omega) hr
        · rename_i hka hv
          subst hka
          simp only [Memory.wfFrom, Bool.and_eq_true, decide_eq_true_eq]
          exact ⟨⟨⟨hlo, ha⟩, hv⟩, hr⟩
      · split
        · simp only [Memory.wfFrom, Bool.and_eq_true, decide_eq_true_eq]
          exact ⟨⟨⟨hk, hkm⟩, hu⟩, hr⟩
        · rename_i hlt hne hv
          simp only [Memory.wfFrom, Bool.and_eq_true, decide_eq_true_eq]
          exact ⟨⟨⟨hlo, ha⟩, hv⟩, ⟨⟨by omega, hkm⟩, hu⟩, hr⟩

/-- The one operation that changes the array keeps its canonical form. -/
theorem memWrite_wf (a : CellAddr) (v : Byte) (s : State)
    (h : Memory.wf (unlisted s.params) s.mem = true) :
    Memory.wf (unlisted (memWrite a v s).params) (memWrite a v s).mem = true :=
  Memory.write_wfFrom _ s.mem 0 a.toNat v (Nat.zero_le _)
    (by have := a.isLt; simp only [Config.maxAddr]; omega) h

theorem memRead_memWrite_same (a : CellAddr) (v : Byte) (s : State)
    (h : Memory.wf (unlisted s.params) s.mem = true) : memRead (memWrite a v s) a = v :=
  Memory.read_write_same _ s.mem 0 a.toNat v h

theorem memRead_memWrite_other (a b : CellAddr) (v : Byte) (s : State) (hab : b ≠ a) :
    memRead (memWrite a v s) b = memRead s b :=
  Memory.read_write_other _ s.mem a.toNat b.toNat v fun h => hab (BitVec.eq_of_toNat_eq h)

end Sys2Proof.Machine
end

