-- ==== Sys2Proof/Laws/PerInstr.lean ====
section
/-! SUPPORT. One statement about every operation as syntax: its word carries its own code and both of its
operand fields, each in its place (30_encoding.md R91, R93). -/

namespace Sys2Proof.Laws

/-- The three fields of an operation's word are the operation's. -/
def WordFields.Statement (i : Instr) : Prop :=
  opField (encode i) = i.op ∧ addrField (encode i) = i.addr ∧ dataField (encode i) = i.data

theorem WordFields.init (addr : Addr) (data : Byte) : WordFields.Statement (.init addr data) :=
  ⟨opField_word _ _ _, addrField_word _ _ _, dataField_word _ _ _⟩

theorem WordFields.read (addr : Addr) (data : Byte) : WordFields.Statement (.read addr data) :=
  ⟨opField_word _ _ _, addrField_word _ _ _, dataField_word _ _ _⟩

theorem WordFields.write (addr : Addr) (data : Byte) : WordFields.Statement (.write addr data) :=
  ⟨opField_word _ _ _, addrField_word _ _ _, dataField_word _ _ _⟩

theorem WordFields.latch (addr : Addr) (data : Byte) : WordFields.Statement (.latch addr data) :=
  ⟨opField_word _ _ _, addrField_word _ _ _, dataField_word _ _ _⟩

theorem WordFields.setdir (addr : Addr) (data : Byte) : WordFields.Statement (.setdir addr data) :=
  ⟨opField_word _ _ _, addrField_word _ _ _, dataField_word _ _ _⟩

theorem WordFields.drive (addr : Addr) (data : Byte) : WordFields.Statement (.drive addr data) :=
  ⟨opField_word _ _ _, addrField_word _ _ _, dataField_word _ _ _⟩

theorem WordFields.sample (addr : Addr) (data : Byte) : WordFields.Statement (.sample addr data) :=
  ⟨opField_word _ _ _, addrField_word _ _ _, dataField_word _ _ _⟩

end Sys2Proof.Laws
end

