-- ==== Sys2Proof/Tests/Slice0.lean ====
section
/-! SUPPORT. Tests from the vectors of 95_test_vectors.md, and for every obligation with hypotheses a
concrete state that meets them. -/

namespace Sys2Proof.Tests

open Sys2Proof.Machine

-- One thread at a time: the many small kernel evaluations below need less memory so.
set_option Elab.async false

/-! ## Helpers -/

/-- Does a next state follow, and does it satisfy `p`? -/
def nextIs (p : State → Bool) : Result → Bool
  | .next s => p s
  | .fault _ | .refused _ => false

/-- Does a next state follow? -/
def runs (r : Result) : Bool := nextIs (fun _ => true) r

theorem exists_next (r : Result) (h : runs r = true) : ∃ t, r = .next t := by
  cases r with
  | next t => exact ⟨t, rfl⟩
  | fault e => simp [runs, nextIs] at h
  | refused e => simp [runs, nextIs] at h

/-- The verdict of the fault an outcome stops with. -/
def faultOf : Result → Option Verdict
  | .fault f => some f.verdict
  | .next _ | .refused _ => none

/-- The refusal an outcome stops with. -/
def refusalIn : Result → Option Refusal
  | .refused e => some e
  | .next _ | .fault _ => none

/-- After INIT at power-up (vector V-I1), with an empty trace. -/
def afterInit : State := { State.reset with inited := true }

/-- After `WRITE 0x0000, 0xAA` (the end state of vector V-W1), with an empty trace. -/
def afterWrite : State :=
  { afterInit with dir := .output, oeN := false, rclk := true, dout := 0xAA#8, mem := [(0, 0xAA#8)] }

/-- The chip selected for reading, with 0xA5 in the cell the address pins select. -/
def chipReads : State := { afterInit with ceN := false, oeN := false, mem := [(0, 0xA5#8)] }

/-- Inside a write pulse of 6 microseconds: write step 8 of `WRITE 0x0001, 0x5A`. -/
def inPulse : State :=
  { afterWrite with
    seq := .wr8, oeN := true, ceN := false, weN := false, sr := 1#16, al := 1#16, dout := 0x5A#8,
    trace := [.pin .weN false, .wait 1, .wait 5] }

/-- The same pulse one microsecond too short. -/
def shortPulse : State := { inPulse with trace := [.pin .weN false, .wait 1, .wait 4] }

/-- `s` with no chip on the bus. -/
def noChip (s : State) : State := { s with params := { s.params with chipPresent := false } }

/-- `s` with a chip that does not commit. -/
def locked (s : State) : State := { s with params := { s.params with chipCommits := false } }

/-- `s` with one word offered by HOST. -/
def hosts (w : Command) (s : State) : State := { s with port := [⟨.host, w⟩] }

/-- `s` with one word issued by the sequencer. -/
def calls (w : Command) (s : State) : State := { s with port := [⟨.sequencer, w⟩] }

/-! ## Well-formedness: the canonical words of 30_encoding.md R96, and a non-canonical term for each check -/

theorem test_wellformed_canonical :
    (Instr.init 0 0).wellFormed = true ∧ (Instr.read 0x7FFF 0).wellFormed = true ∧
    (Instr.write 0x8001 0x5A).wellFormed = true ∧ (Instr.latch 0x1234 0).wellFormed = true ∧
    (Instr.setdir 0 0).wellFormed = true ∧ (Instr.setdir 0 1).wellFormed = true ∧
    (Instr.drive 0 0xAA).wellFormed = true ∧ (Instr.sample 0 0).wellFormed = true := by decide

theorem test_illformed_init : (Instr.init 1 0).wellFormed = false ∧
    (Instr.init 0 1).wellFormed = false := by decide
theorem test_illformed_read : (Instr.read 0x0042 0xC3).wellFormed = false := by decide
theorem test_illformed_latch : (Instr.latch 0x1234 1).wellFormed = false := by decide
theorem test_illformed_setdir : (Instr.setdir 1 0).wellFormed = false ∧
    (Instr.setdir 0 2).wellFormed = false := by decide
theorem test_illformed_drive : (Instr.drive 1 0xAA).wellFormed = false := by decide
theorem test_illformed_sample : (Instr.sample 1 0).wellFormed = false ∧
    (Instr.sample 0 1).wellFormed = false := by decide

/-! ## Decoding: the words of 95_test_vectors.md V-E and 30_encoding.md R103, written out -/

theorem test_decode_init : decodeHost 0x0000000#27 = .ok (.init 0x0000 0x00) ∧
    decodeHost 0x0ABCDEF#27 = .ok (.init 0xABCD 0xEF) := by decide
theorem test_decode_read : decodeHost 0x17FFF00#27 = .ok (.read 0x7FFF 0x00) ∧
    decodeHost 0x10042C3#27 = .ok (.read 0x0042 0xC3) := by decide
theorem test_decode_write : decodeHost 0x280015A#27 = .ok (.write 0x8001 0x5A) ∧
    decodeHost 0x2FFFFFF#27 = .ok (.write 0xFFFF 0xFF) := by decide
theorem test_decode_refused : decodeHost 0x3000000#27 = .error .reservedOp ∧
    decodeHost 0x4123400#27 = .error .internalOp ∧ decodeHost 0x7FFFFFF#27 = .error .internalOp ∧
    decodeCall 0x2000000#27 = .error .notInternal := by decide
theorem test_decode_latch : decodeCall 0b100000100100011010000000000#27 = .ok (.latch 0x1234 0) := by
  decide
theorem test_decode_setdir : decodeCall 0b101000000000000000000000001#27 = .ok (.setdir 0 1) := by decide
theorem test_decode_drive : decodeCall 0b110000000000000000010101010#27 = .ok (.drive 0 0xAA) := by decide
theorem test_decode_sample : decodeCall 0b111000000000000000000000000#27 = .ok (.sample 0 0) := by decide
theorem test_encode_write : encode (.write 0x8001 0x5A) = 0b010100000000000000101011010#27 := by decide
theorem test_table_words : decodeTableWord 27 0x280015A = some (.write 0x8001 0x5A) ∧
    decodeTableWord 32 0x3000000 = none ∧ decodeTableWord 32 0x8000000 = none := by decide

/-! ## One step of each operation -/

/-- Vector V-I2: the transitions of INIT after a WRITE. -/
theorem test_init_transitions :
    nextIs (fun t => decide (transitions afterWrite.lines t.trace =
      [.dir .input, .pin .oeN true, .pin .rclk false]) && decide (t.dout = 0xAA#8))
      (exec (.init 0 0) afterWrite) = true := by decide

/-- Vector V-R2: READ after a WRITE. -/
theorem test_read_after_write :
    nextIs (fun t => decide (t.trace.length = 65) && decide (t.rdata = 0xAA#8) && t.oeN)
      (exec (.read 0x0000 0) afterWrite) = true := by decide +kernel

/-- Vector V-R5: bit 15 of the operand is ignored. -/
theorem test_read_top_alias :
    nextIs (fun t => decide (t.rdata = 0x3C#8) && decide (t.al = 0xFFFF#16))
      (exec (.read 0xFFFF 0) { afterInit with mem := [(0x7FFF, 0x3C#8)] }) = true := by decide +kernel

/-- Vector V-W1: the first WRITE after INIT. -/
theorem test_write_first :
    nextIs (fun t => decide (t.trace.length = 72) && decide (t.mem = [(0, 0xAA#8)]) && !t.oeN)
      (exec (.write 0x0000 0xAA) afterInit) = true := by decide +kernel

/-- Vector V-W2: the byte at the end of the pulse is stored, not the one at its start. -/
theorem test_write_second :
    nextIs (fun t => decide (t.trace.length = 71) && decide (t.mem = [(0, 0x55#8)]))
      (exec (.write 0x0000 0x55) afterWrite) = true := by decide +kernel

/-- Vector V-L1: LATCH 0x1234 over an old shift stage of 0xBEEF. -/
theorem test_latch_1234 :
    nextIs (fun t => decide (t.al = 0x1234#16) && decide (t.trace.length = 50) && !t.ser)
      (exec (.latch 0x1234 0)
        { afterInit with sr := 0xBEEF#16, al := 0xBEEF#16, rclk := true, ser := true }) = true := by
  decide +kernel

/-- Vector V-L7: the first bit is lost where the shift clock is high on entry. -/
theorem test_latch_high_clock :
    nextIs (fun t => decide (t.al = 0x9234#16) && decide (addressPins t = 0x1234#15))
      (exec (.latch 0x1234 0) { afterInit with sr := 0x0001#16, srclk := true }) = true := by
  decide +kernel

/-- Vector V-D1: the switch to OUTPUT. -/
theorem test_setdir_output :
    nextIs (fun t => decide (t.trace = [.dir .output]) && decide (bus t = .driven 0x3C#8))
      (exec (.setdir 0 1) { afterInit with dout := 0x3C#8 }) = true := by decide

/-- The state an outcome's fault leaves. -/
def leftBy : Result → Option State
  | .fault f => some f.left
  | .next _ | .refused _ => none

/-- Vector V-D15: the switch against the driving chip, with its one event and the FAULT mark. -/
theorem test_setdir_contention :
    faultOf (exec (.setdir 0 1) chipReads) = some .busContention ∧
    (leftBy (exec (.setdir 0 1) chipReads)).map (fun t => (t.trace, t.faultMark)) =
      some ([.dir .output], some .busContention) := by decide

/-- Vector V-D6: DRIVE 0xAA. -/
theorem test_drive_aa :
    nextIs (fun t => decide (t.dout = 0xAA#8) && decide (t.trace =
      [.pin (.d 0) false, .pin (.d 1) true, .pin (.d 2) false, .pin (.d 3) true,
       .pin (.d 4) false, .pin (.d 5) true, .pin (.d 6) false, .pin (.d 7) true]))
      (exec (.drive 0 0xAA) { afterInit with dir := .output }) = true := by decide +kernel

/-- Vector V-D9: DRIVE with the lines as inputs. -/
theorem test_drive_input : faultOf (exec (.drive 0 0x55) afterInit) = some .driveWhileInput := by decide

/-- Vector V-D10: SAMPLE of 0xA5. -/
theorem test_sample_a5 :
    nextIs (fun t => decide (t.rdata = 0xA5#8) && decide (t.trace =
      [.sample 7 true, .sample 6 false, .sample 5 true, .sample 4 false,
       .sample 3 false, .sample 2 true, .sample 1 false, .sample 0 true]))
      (exec (.sample 0 0) chipReads) = true := by decide +kernel

/-- Vector V-D14: SAMPLE with the lines as outputs. -/
theorem test_sample_output : faultOf (exec (.sample 0 0) afterWrite) = some .sampleWhileOutput := by
  decide

/-! ## Witnesses: the states below meet the hypotheses of the obligations -/

theorem test_witness_encode_of_decode : ∃ w i, decode w = .ok i := ⟨0x27FFF00#27, _, rfl⟩

theorem test_witness_row_masks :
    0x17FFF00#27 &&& 0x7000000#27 = (Instr.read 0 0).rowMatch ∧
    ¬(0x27FFF00#27 &&& 0x7000000#27 = (Instr.read 0 0).rowMatch) := by decide

theorem test_witness_host_decoder :
    (0x0FFFFFF#27).extractLsb' 24 3 = 0b000#3 ∧ (0x1FFFFFF#27).extractLsb' 24 3 = 0b001#3 ∧
    (0x2FFFFFF#27).extractLsb' 24 3 = 0b010#3 ∧ (0x3FFFFFF#27).extractLsb' 24 3 = 0b011#3 ∧
    (0x4000000#27).getLsbD 26 = true ∧ (0x7FFFFFF#27).getLsbD 26 = true := by decide

theorem test_witness_ignored_fields :
    runs (exec (.init 0xABCD 0xEF) afterInit) = true ∧ runs (exec (.read 0x0042 0xC3) afterInit) = true ∧
    (0x01#8).getLsbD 0 = (0xFF#8).getLsbD 0 := by decide +kernel

theorem test_witness_ready : Ready afterInit ∧ Ready afterWrite ∧ Ready (noChip afterInit) ∧
    Ready (locked afterWrite) := by decide

theorem test_witness_step_runs :
    (hosts 0x1000000#27 afterInit).faultMark = none ∧ (hosts 0x1000000#27 afterInit).seq = .idle ∧
    (hosts 0x1000000#27 afterInit).port = [⟨.host, 0x1000000#27⟩] ∧
    (Move.mk .host 0x1000000#27).decode = .ok (.read 0 0) ∧
    (Move.mk .sequencer 0x7000000#27).decode = .ok (.sample 0 0) := by decide

theorem test_witness_fetch_word :
    afterWrite.faultMark = none ∧ decodeTableWord 27 0x4123400 = some (.latch 0x1234 0) ∧
    runs (step (State.reset.withFetchWord 27 0x0000000)) = true := by decide

theorem test_witness_port_refuses :
    refusalIn (step (hosts 0x3000000#27 afterInit)) = some .reservedOp ∧
    refusalIn (step (hosts 0x4000000#27 afterInit)) = some .internalOp ∧
    refusalIn (step (calls 0x2000000#27 afterInit)) = some .notInternal ∧
    refusalIn (step (calls 0x3FFFFFF#27 afterInit)) = some .reservedOp := by decide

theorem test_witness_idle : State.reset.faultMark = none ∧ State.reset.seq = .idle ∧
    State.reset.port = [] := by decide

theorem test_witness_fault_mark :
    ({ afterInit with faultMark := some .oeWeOverlap }).faultMark = some .oeWeOverlap := rfl

/-- One step from a state at rest, one with a move, one met inside a command. -/
theorem test_witness_step_next :
    runs (step afterWrite) = true ∧ runs (step (hosts 0x1000000#27 afterWrite)) = true ∧
    runs (step inPulse) = true ∧ MemWf inPulse := by decide +kernel

theorem test_witness_seq_step : runs (seqStep inPulse) = true ∧ runs (seqStep afterInit) = true ∧
    runs (seqStep { afterInit with seq := .rd6 }) = true := by decide +kernel

/-- A fault of an operation, one of a step, one of a step in the middle of a command, and one met again. -/
theorem test_witness_faults :
    faultOf (exec (.drive 0 0x55) afterInit) = some .driveWhileInput ∧
    faultOf (step (calls 0x7000000#27 afterWrite)) = some .sampleWhileOutput ∧
    faultOf (step ({ inPulse with oeN := false })) = some .oeWeOverlap ∧
    faultOf (step ({ afterInit with faultMark := some .busContention })) = some .busContention := by
  decide +kernel

/-- Where two verdicts hold, the direction's comes first (assumption log 16). -/
theorem test_witness_two_verdicts :
    faultOf (exec (.drive 0 0) ({ inPulse with oeN := false, dir := .input })) = some .driveWhileInput ∧
    faultOf (exec (.sample 0 0) ({ inPulse with oeN := false })) = some .sampleWhileOutput ∧
    faultOf (exec (.sample 0 0) ({ chipReads with dir := .output })) = some .sampleWhileOutput := by
  decide

theorem test_witness_busy : inPulse.seq ≠ .idle ∧ inPulse.inited = true := by decide

theorem test_witness_before_init : State.reset.inited = false := rfl

theorem test_witness_bit_fifteen :
    (0x8001#16).toNat % 32768 = (0x0001#16).toNat % 32768 ∧
    (0xFFFF#16).toNat % 32768 = (0x7FFF#16).toNat % 32768 ∧ Ready afterWrite ∧
    afterWrite.params.chipPresent = true ∧ runs (exec (.read 0x8001 0) afterWrite) = true ∧
    runs (exec (.read 0x0001 0) afterWrite) = true := by decide +kernel

theorem test_witness_shift_edge :
    afterInit.srclk = false ∧
    ((Action.pin .srclk true).apply { afterInit with sr := 0xFFFF#16, ser := false }).sr = 0xFFFE#16 ∧
    ¬(Action.pin .srclk true = .pin .srclk true ∧ ({ afterInit with srclk := true }).srclk = false) ∧
    ¬(Action.pin .srclk false = .pin .srclk true ∧ afterInit.srclk = false) := by decide

theorem test_witness_latch_edge :
    afterInit.rclk = false ∧ ¬(Action.pin .rclk true = .pin .rclk true ∧ afterWrite.rclk = false) ∧
    ¬(Action.pin .rclk false = .pin .rclk true ∧ afterInit.rclk = false) := by decide

/-- The four rows of the table of 20_memory.md R71. -/
theorem test_witness_bus :
    bus ({ chipReads with dir := .output }) = .contended ∧ bus afterWrite = .driven 0xAA#8 ∧
    bus chipReads = .driven 0xA5#8 ∧ bus afterInit = .floating ∧ bus (noChip chipReads) = .floating := by
  decide

theorem test_witness_forbidden_lines :
    violation ({ inPulse with oeN := false }) = some .oeWeOverlap ∧
    violation ({ chipReads with dir := .output }) = some .busContention ∧
    (violation inPulse = none ∧ unmodelled (.pin .oeN false) inPulse = false ∧
      ((Action.pin .oeN false).apply inPulse).oeN = false ∧
      ((Action.pin .oeN false).apply inPulse).weN = false) ∧
    (violation chipReads = none ∧ unmodelled (.dirset .output) chipReads = false ∧
      coreDrives ((Action.dirset .output).apply chipReads) = true ∧
      chipDrives ((Action.dirset .output).apply chipReads) = true) ∧
    runs (act (.pin .weN true) inPulse) = true := by decide

theorem test_witness_unmodelled :
    (violation shortPulse = none ∧ shortPulse.weN = false ∧ shortPulse.ceN = false ∧
      pulseTime shortPulse.trace + 1 = shortPulse.params.tSettle + shortPulse.params.tWp) ∧
    (violation ({ inPulse with ceN := true }) = none) ∧
    ({ inPulse with rclk := false, sr := 2#16 }).al ≠ 2#16 := by decide

theorem test_witness_commit :
    inPulse.weN = false ∧ inPulse.ceN = false ∧ inPulse.oeN = true ∧
    inPulse.params.tSettle + inPulse.params.tWp = pulseTime inPulse.trace ∧
    inPulse.params.chipPresent = true ∧ inPulse.params.chipCommits = true ∧ inPulse.dir = .output ∧
    ({ inPulse with dir := .input }).weN = false ∧ (noChip inPulse).params.chipPresent = false ∧
    (locked inPulse).params.chipCommits = false := by decide

theorem test_witness_cells : MemWf afterWrite ∧ MemWf ({ afterWrite with mem := [(0, 0#8), (32767, 0#8)] }) ∧
    (0#15 : CellAddr) ≠ 32767#15 := by decide

/-- A list that is out of order, too high or lists an erased cell is not canonical. -/
theorem test_memory_not_canonical :
    Memory.wf 0xFF#8 [(1, 0#8), (0, 0#8)] = false ∧ Memory.wf 0xFF#8 [(32768, 0#8)] = false ∧
    Memory.wf 0xFF#8 [(0, 0xFF#8)] = false := by decide

theorem test_witness_latch :
    afterInit.srclk = false ∧ violation afterInit = none ∧ NoPulse afterInit ∧
    runs (run ((latchActions 0x1234).take 0) afterInit) = true ∧
    runs (run ((latchActions 0x1234).take 49) afterInit) = true := by decide +kernel

theorem test_witness_latch_high_clock :
    ({ afterInit with srclk := true }).srclk = true ∧ violation ({ afterInit with srclk := true }) = none ∧
    NoPulse ({ afterInit with srclk := true }) := by decide

theorem test_witness_latch_in_pulse :
    inPulse.srclk = false ∧ inPulse.weN = false ∧ inPulse.ceN = false ∧ inPulse.oeN = true ∧
    2#16 ≠ inPulse.al := by decide

theorem test_witness_setdir :
    (dirOperand 0x01 ≠ afterInit.dir ∧ violation afterInit = none ∧ chipDrives afterInit = false) ∧
    (dirOperand 0xFE ≠ afterWrite.dir ∧ violation afterWrite = none) ∧
    (dirOperand 0xFF = afterWrite.dir ∧ dirOperand 0x00 = afterInit.dir) ∧
    ((0x01#8).getLsbD 0 = true ∧ chipReads.dir = .input ∧ chipDrives chipReads = true) := by decide

theorem test_witness_drive_sample :
    (afterWrite.dir = .output ∧ violation afterWrite = none) ∧
    (chipReads.dir = .input ∧ violation chipReads = none ∧ chipDrives chipReads = true) ∧
    (afterInit.dir = .input ∧ violation afterInit = none ∧ chipDrives afterInit = false) := by decide

theorem test_witness_read_steps :
    ({ afterWrite with seq := .rd1 }).dir = .output ∧ ({ afterInit with seq := .rd1 }).dir = .input ∧
    ({ afterInit with seq := .rd3 }).weN = true ∧ ({ chipReads with seq := .rd4 }).weN = true ∧
    ({ chipReads with seq := .rd6 }).dir = .input := by decide

theorem test_witness_write_steps :
    ({ afterInit with seq := .wr1 }).ceN = true ∧ ({ afterWrite with seq := .wr1 }).dir = .output ∧
    ({ afterWrite with seq := .wr2 }).weN = true ∧ ({ afterInit with seq := .wr4 }).oeN = true ∧
    ({ inPulse with seq := .wr5, weN := true }).oeN = true ∧ ({ inPulse with seq := .wr7 }).oeN = true ∧
    ({ inPulse with seq := .wr9, weN := true }).weN = true ∧
    ({ afterInit with seq := .wr10 }).params.oeReassert = true ∧
    ({ afterInit with seq := .wr10, params := { oeReassert := false } }).ceN = true := by decide

theorem test_witness_write_then_read :
    Ready afterWrite ∧ MemWf afterWrite ∧ afterWrite.params.chipPresent = true ∧
    afterWrite.params.chipCommits = true ∧ cell 0x8001 = cell 0x0001 ∧ cell 0x0000 ≠ cell 0x0001 := by
  decide

theorem test_witness_frames :
    runs (exec (.latch 0x1234 0) afterInit) = true ∧ runs (exec (.setdir 0 1) afterInit) = true ∧
    runs (exec (.drive 0 0xAA) afterWrite) = true ∧ runs (exec (.sample 0 0) chipReads) = true ∧
    runs (exec (.sample 0 0) afterInit) = true ∧ runs (exec (.init 0 0) State.reset) = true ∧
    runs (exec (.read 0xFFFF 0) (noChip afterWrite)) = true ∧
    runs (exec (.write 0xFFFF 0) afterInit) = true := by decide +kernel

theorem trace_from_empty (r : Result) (s : State) (hs : s.trace = []) (h : runs r = true) :
    ∃ t es, r = .next t ∧ t.trace = s.trace ++ es := by
  obtain ⟨t, ht⟩ := exists_next r h
  exact ⟨t, t.trace, ht, by rw [hs, List.nil_append]⟩

/-- The end of a command, and its events. -/
theorem test_witness_events :
    (∃ t es, exec (.init 0 0) afterWrite = .next t ∧ t.trace = afterWrite.trace ++ es) ∧
    (∃ t es, exec (.read 0 0) afterWrite = .next t ∧ t.trace = afterWrite.trace ++ es) ∧
    (∃ t es, exec (.write 0 0xAA) afterWrite = .next t ∧ t.trace = afterWrite.trace ++ es) :=
  ⟨trace_from_empty _ _ rfl (by decide +kernel), trace_from_empty _ _ rfl (by decide +kernel),
    trace_from_empty _ _ rfl (by decide +kernel)⟩

theorem test_witness_direction_switch :
    nextIs (fun t => decide (t.trace = [] ++ Event.dir .input :: t.trace.tail))
      (exec (.read 0x0000 0) afterWrite) = true := by decide +kernel

theorem test_witness_commands :
    ∀ c ∈ [Instr.write 0x8001 0x5A, .read 0x0001 0, .init 0 0], c.isCommand = true := by decide

theorem test_witness_run_invariant : RunInv State.reset ∧ RunInv afterWrite := by decide

theorem test_witness_run_step :
    RunInv (hosts 0x1000000#27 afterWrite) ∧ runs (step (hosts 0x1000000#27 afterWrite)) = true := by
  decide +kernel

theorem test_witness_run_refused :
    RunInv (hosts 0x1000000#27 State.reset) ∧
    refusalIn (step (hosts 0x1000000#27 State.reset)) = some .notInitialised := by decide

theorem test_witness_run_accepts :
    RunInv (hosts 0x0000000#27 State.reset) ∧ decodeHost 0x0000000#27 = .ok (.init 0 0) := by decide

theorem test_witness_program :
    Ready afterInit ∧ MemWf afterInit ∧ afterInit.params.chipPresent = true ∧
    afterInit.params.chipCommits = true := by decide

end Sys2Proof.Tests
end

section
/-! What one action does, field by field: the fields no action touches, the lines, and the two registers
that move only at an edge (10_state.md R25 to R27). -/

namespace Sys2Proof.Machine

/-- A write of write-enable, with or without a commit, moves the line, MEM and the count of free
values. -/
theorem apply_pin_weN (v : Level) (s : State) :
    (Action.pin .weN v).apply s = { s with
      weN := v, trace := s.trace ++ [.pin .weN v],
      mem := ((Action.pin .weN v).apply s).mem, draws := ((Action.pin .weN v).apply s).draws } := by
  simp only [Action.apply, emit, writePin]
  split
  · rw [commit_eq]
  · rfl

/-- A sample moves `RDATA` and the count of free values. -/
theorem apply_sample (i : Fin 8) (s : State) :
    (Action.sample i).apply s = { s with
      rdata := setBit s.rdata i (level i s).1, trace := s.trace ++ [.sample i (level i s).1],
      draws := ((Action.sample i).apply s).draws } := by
  simp only [Action.apply, emit, level]
  rw [busByte_eq]

/-- No action touches the operand registers, the sequencer or the bookkeeping but for the trace. -/
theorem apply_frame (a : Action) (s : State) :
    a.apply s = { a.apply s with
      cmdAddr := s.cmdAddr, cmdData := s.cmdData, seq := s.seq,
      faultMark := s.faultMark, inited := s.inited, port := s.port, params := s.params } := by
  cases a with
  | pin p v =>
    cases p with
    | weN => rw [apply_pin_weN]
    | _ => rfl
  | sample i => rw [apply_sample]
  | dirset d => rfl
  | wait n => rfl

section fields
variable (a : Action) (s : State)

@[simp] theorem apply_seq : (a.apply s).seq = s.seq := by rw [apply_frame]
@[simp] theorem apply_faultMark : (a.apply s).faultMark = s.faultMark := by rw [apply_frame]
@[simp] theorem apply_inited : (a.apply s).inited = s.inited := by rw [apply_frame]
@[simp] theorem apply_port : (a.apply s).port = s.port := by rw [apply_frame]
@[simp] theorem apply_params : (a.apply s).params = s.params := by rw [apply_frame]

end fields

/-- Every action makes one event (00_scope.md R12). -/
theorem apply_trace (a : Action) (s : State) : ∃ e, (a.apply s).trace = s.trace ++ [e] := by
  cases a with
  | pin p v =>
    cases p with
    | weN => exact ⟨.pin .weN v, by rw [apply_pin_weN]⟩
    | _ => exact ⟨_, rfl⟩
  | sample i => exact ⟨.sample i (level i s).1, by rw [apply_sample]⟩
  | dirset d => exact ⟨_, rfl⟩
  | wait n => exact ⟨_, rfl⟩

/-- The commit keeps the canonical form of MEM. -/
theorem commit_memWf (s : State) (h : MemWf s) : MemWf (commit s) := by
  have hbus : MemWf (busByte s).2 := by
    rw [busByte_eq]
    exact h
  unfold commit
  split
  · exact memWrite_wf _ _ _ hbus
  · exact h

/-- Every action keeps the canonical form of MEM. -/
theorem apply_memWf (a : Action) (s : State) (h : MemWf s) : MemWf (a.apply s) := by
  cases a with
  | pin p v =>
    cases p with
    | weN =>
      simp only [Action.apply, writePin]
      split
      · exact commit_memWf s h
      · exact h
    | _ => exact h
  | sample i =>
    rw [apply_sample]
    exact h
  | dirset d => exact h
  | wait n => exact h

/-- The shift stage moves at the rise of `SRCLK` only (10_state.md R25, R27). -/
theorem apply_sr (a : Action) (s : State) :
    (a.apply s).sr =
      if a = .pin .srclk true ∧ s.srclk = false then shiftIn s.sr s.ser else s.sr := by
  cases a with
  | pin p v =>
    cases p with
    | srclk => cases v <;> cases hc : s.srclk <;> simp [Action.apply, writePin, hc]
    | weN => rw [apply_pin_weN, if_neg (by simp)]
    | _ => simp [Action.apply, writePin]
  | sample i => rw [apply_sample, if_neg (by simp)]
  | dirset d => simp [Action.apply]
  | wait n => simp [Action.apply]

/-- The output stage moves at the rise of `RCLK` only (10_state.md R26, R27). -/
theorem apply_al (a : Action) (s : State) :
    (a.apply s).al = if a = .pin .rclk true ∧ s.rclk = false then s.sr else s.al := by
  cases a with
  | pin p v =>
    cases p with
    | rclk => cases v <;> cases hc : s.rclk <;> simp [Action.apply, writePin, hc]
    | weN => rw [apply_pin_weN, if_neg (by simp)]
    | _ => simp [Action.apply, writePin]
  | sample i => rw [apply_sample, if_neg (by simp)]
  | dirset d => simp [Action.apply]
  | wait n => simp [Action.apply]

/-- One shift as arithmetic (10_state.md R25). -/
theorem shiftIn_toNat (sr : Addr) (b : Level) :
    (shiftIn sr b).toNat = (sr.toNat * 2 + b.toNat) % 65536 := by
  have hbit : (BitVec.ofBool b).toNat = b.toNat := by cases b <;> rfl
  have hlt : b.toNat < 2 ^ 1 := b.toNat_lt
  have happend : (shiftIn sr b).toNat = (sr.toNat % 2 ^ 15) <<< 1 ||| b.toNat := by
    rw [shiftIn, BitVec.toNat_append, BitVec.extractLsb'_toNat, hbit, Nat.shiftRight_zero]
  rw [happend, ← Nat.shiftLeft_add_eq_or_of_lt hlt, Nat.shiftLeft_eq]
  omega

end Sys2Proof.Machine
end

section
/-! The lines after actions: `Lines.after` is what the state's own lines do. -/

namespace Sys2Proof.Machine

/-- What an action does to the levels of the lines: those of the event it makes. -/
def Action.onLines : Action → Lines → Lines
  | .pin p v, l => l.after (.pin p v)
  | .dirset d, l => l.after (.dir d)
  | .sample _, l | .wait _, l => l

/-- The lines after actions in order. -/
def linesAfter (as : List Action) (l : Lines) : Lines := as.foldl (fun l a => a.onLines l) l

theorem apply_lines (a : Action) (s : State) : (a.apply s).lines = a.onLines s.lines := by
  cases a with
  | pin p v =>
    cases p with
    | weN =>
      rw [apply_pin_weN]
      rfl
    | _ => rfl
  | sample i =>
    rw [apply_sample]
    rfl
  | dirset d => rfl
  | wait n => rfl

theorem foldl_apply_lines (as : List Action) (s : State) :
    (as.foldl (fun s a => a.apply s) s).lines = linesAfter as s.lines := by
  induction as generalizing s with
  | nil => rfl
  | cons a as ih => rw [List.foldl_cons, ih, apply_lines, linesAfter, linesAfter, List.foldl_cons]

/-- Actions that all answer a next state have been applied in order. -/
theorem run_eq_next (as : List Action) (s t : State) (h : run as s = .next t) :
    t = as.foldl (fun s a => a.apply s) s := by
  induction as generalizing s with
  | nil =>
    cases h
    rfl
  | cons a as ih =>
    obtain ⟨u, hu, hut⟩ := (andThen_eq_next _ _ _).1 h
    obtain ⟨-, -, -, rfl⟩ := (act_eq_next _ _ _).1 hu
    exact ih _ hut

theorem run_lines (as : List Action) (s t : State) (h : run as s = .next t) :
    t.lines = linesAfter as s.lines := by
  rw [run_eq_next as s t h, foldl_apply_lines]

/-- Actions do not move the sequencer. -/
theorem run_seq (as : List Action) (s t : State) (h : run as s = .next t) : t.seq = s.seq := by
  refine run_keeps (·.seq = s.seq) as (fun a _ u v huv hu => ?_) s t h rfl
  obtain ⟨-, -, -, rfl⟩ := (act_eq_next _ _ _).1 huv
  exact (apply_seq a u).trans hu

theorem linesAfter_cons (a : Action) (as : List Action) (l : Lines) :
    linesAfter (a :: as) l = linesAfter as (a.onLines l) := rfl

theorem linesAfter_append (as bs : List Action) (l : Lines) :
    linesAfter (as ++ bs) l = linesAfter bs (linesAfter as l) := List.foldl_append

theorem linesAfter_shiftPulse (b : Level) (l : Lines) :
    linesAfter (shiftPulse b) l = { l with ser := b, srclk := false } := rfl

/-- Shifting a byte out leaves `SRCLK` low, with bit 0 on `SER`. -/
theorem linesAfter_shiftOut8 (b : Byte) (l : Lines) :
    linesAfter (shiftOut8 b) l = { l with ser := b.getLsbD 0, srclk := false } := by
  simp only [shiftOut8, msbFirst, List.flatMap_cons, List.flatMap_nil, linesAfter_append,
    linesAfter_shiftPulse]
  rfl

/-- LATCH leaves `RCLK` high and `SRCLK` low, with bit 0 of the address on `SER`. -/
theorem linesAfter_latchActions (a : Addr) (l : Lines) :
    linesAfter (latchActions a) l =
      { l with rclk := true, srclk := false, ser := (lowByte a).getLsbD 0 } := by
  simp only [latchActions, linesAfter_cons, linesAfter_append, linesAfter_shiftOut8]
  rfl

theorem linesAfter_drives (v : Byte) (bits : List (Fin 8)) (l : Lines) :
    linesAfter (bits.map fun (i : Fin 8) => .pin (.d i) (v.getLsbD i.val)) l = { l with
      dout := bits.foldl (fun x (i : Fin 8) => setBit x i (v.getLsbD i.val)) l.dout } := by
  induction bits generalizing l with
  | nil => rfl
  | cons i bits ih => exact ih _

/-- DRIVE moves the eight data lines only. -/
theorem linesAfter_driveActions (v : Byte) (l : Lines) :
    linesAfter (driveActions v) l = { l with dout := v } := by
  rw [driveActions, linesAfter_drives, setBit_lsbFirst]

/-- DRIVE answers a next state with the bus at OUTPUT only (41_data_bus.md R146). -/
theorem drive_eq_next (v : Byte) (s t : State) :
    drive v s = .next t ↔ s.dir = .output ∧ run (driveActions v) s = .next t := by
  by_cases hd : s.dir = .output <;> simp [drive, hd]

/-- SAMPLE answers a next state with the bus at INPUT only (41_data_bus.md R149). -/
theorem sample_eq_next (s t : State) :
    sample s = .next t ↔ s.dir = .input ∧ run sampleActions s = .next t := by
  by_cases hd : s.dir = .input <;> simp [sample, hd]

/-- SETDIR moves the direction only. -/
theorem setDir_lines (d : Dir) (s t : State) (h : setDir d s = .next t) :
    t.lines = { s.lines with dir := d } := by
  rw [setDir_eq_next d s t h]
  rfl

theorem setDir_seq (d : Dir) (s t : State) (h : setDir d s = .next t) : t.seq = s.seq := by
  rw [setDir_eq_next d s t h]

end Sys2Proof.Machine
end
section
/-! What every result keeps: the bookkeeping, the canonical MEM, and the mark in the state a fault
leaves. -/

namespace Sys2Proof.Machine

/-- What no action, numbered step or command changes, and how the trace and `INITED` may move
(10_state.md R41, R44). -/
structure Kept (s t : State) : Prop where
  params : t.params = s.params
  faultMark : t.faultMark = s.faultMark
  port : t.port = s.port
  inited : s.inited = true → t.inited = true
  trace : s.trace <+: t.trace
  memWf : MemWf s → MemWf t

theorem Kept.refl (s : State) : Kept s s := ⟨rfl, rfl, rfl, id, List.prefix_rfl, id⟩

theorem Kept.trans {s t u : State} (h : Kept s t) (k : Kept t u) : Kept s u where
  params := k.params.trans h.params
  faultMark := k.faultMark.trans h.faultMark
  port := k.port.trans h.port
  inited := k.inited ∘ h.inited
  trace := h.trace.trans k.trace
  memWf := k.memWf ∘ h.memWf

theorem kept_apply (a : Action) (s : State) : Kept s (a.apply s) where
  params := apply_params a s
  faultMark := apply_faultMark a s
  port := apply_port a s
  inited := fun h => (apply_inited a s).trans h
  trace := (apply_trace a s).elim fun e h => h ▸ List.prefix_append s.trace [e]
  memWf := apply_memWf a s

theorem kept_foldl_apply (as : List Action) (s : State) :
    Kept s (as.foldl (fun s a => a.apply s) s) := by
  induction as generalizing s with
  | nil => exact .refl s
  | cons a as ih => exact (kept_apply a s).trans (ih _)

/-- What holds of every result from `s`: a next state keeps the bookkeeping, and a fault leaves a state
that has its mark and the trace so far. -/
def Extends (s : State) : Result → Prop
  | .next t => Kept s t
  | .fault f => f.left.faultMark = some f.verdict ∧ s.trace <+: f.left.trace
  | .refused _ => True

theorem Kept.extends {s u : State} {r : Result} (h : Kept s u) (hr : Extends u r) : Extends s r := by
  cases r with
  | next t => exact h.trans hr
  | fault f => exact ⟨hr.1, h.trace.trans hr.2⟩
  | refused e => trivial

theorem extends_andThen {s : State} {r : Result} {f : State → Result} (hr : Extends s r)
    (hf : ∀ u, Extends u (f u)) : Extends s (andThen r f) := by
  cases r with
  | next u => exact Kept.extends hr (hf u)
  | fault e => exact hr
  | refused e => trivial

theorem extends_raise (v : Verdict) (s : State) : Extends s (raise v s) :=
  ⟨by simp, by simp⟩

theorem extends_act (a : Action) (s : State) : Extends s (act a s) := by
  unfold act
  split
  · exact extends_raise _ s
  · split
    · trivial
    · split
      · exact (kept_apply a s).extends (extends_raise _ _)
      · exact kept_apply a s

theorem extends_run (as : List Action) (s : State) : Extends s (run as s) := by
  induction as generalizing s with
  | nil => exact .refl s
  | cons a as ih => exact extends_andThen (extends_act a s) ih

theorem extends_setDir (d : Dir) (s : State) : Extends s (setDir d s) := by
  unfold setDir
  split
  · exact .refl s
  · exact extends_act _ s

theorem extends_drive (v : Byte) (s : State) : Extends s (drive v s) := by
  unfold drive
  split
  · exact extends_run _ s
  · exact extends_raise _ s

theorem extends_sample (s : State) : Extends s (sample s) := by
  unfold sample
  split
  · exact extends_run _ s
  · exact extends_raise _ s

theorem extends_goto (q : Seq) (s : State) : Extends s (goto q s) :=
  ⟨rfl, rfl, rfl, id, List.prefix_rfl, id⟩

theorem extends_accept (q : Seq) (a : Addr) (d : Byte) (s : State) : Extends s (accept q a d s) := by
  unfold accept
  split
  · exact ⟨rfl, rfl, rfl, id, List.prefix_rfl, id⟩
  · trivial

theorem extends_needInited (s : State) : Extends s (needInited s) := by
  unfold needInited
  split
  · exact .refl s
  · trivial

theorem kept_initStep (s : State) : Kept s (initStep s) :=
  (kept_foldl_apply initActions s).trans ⟨rfl, rfl, rfl, fun _ => rfl, List.prefix_rfl, id⟩

end Sys2Proof.Machine
end

section
/-! The numbered steps as one table over the positions of `SEQ` (10_state.md R34, R36). -/

namespace Sys2Proof.Machine

/-- What the sequencer does at a position, before it moves on (42_controller.md R162 to R181). -/
def numberedStep : Seq → State → Result
  | .idle, s => .next s
  | .ini, s => .next (initStep s)
  | .rd1, s => readStep1 s
  | .rd2, s => readStep2 s
  | .rd3, s => readStep3 s
  | .rd4, s => readStep4 s
  | .rd5, s => readStep5 s
  | .rd6, s => readStep6 s
  | .wr1, s => writeStep1 s
  | .wr2, s => writeStep2 s
  | .wr3, s => writeStep3 s
  | .wr4, s => writeStep4 s
  | .wr5, s => writeStep5 s
  | .wr6, s => writeStep6 s
  | .wr7, s => writeStep7 s
  | .wr8, s => writeStep8 s
  | .wr9, s => writeStep9 s
  | .wr10, s => writeStep10 s

theorem goto_seq (s : State) : goto s.seq s = .next s := rfl

/-- One step of the sequencer is the numbered step at `SEQ`, then the move to the next position. -/
theorem seqStep_eq (s : State) : seqStep s = andThen (numberedStep s.seq s) (goto s.seq.next) := by
  unfold seqStep
  cases h : s.seq with
  | idle =>
    change Host.Outcome.next s = goto .idle s
    rw [← h, goto_seq]
  | _ => rfl

theorem seqStep_eq_next (s t : State) :
    seqStep s = .next t ↔
      ∃ u, numberedStep s.seq s = .next u ∧ t = { u with seq := s.seq.next } := by
  rw [seqStep_eq, andThen_goto_eq_next]

/-- The sequencer's own test of `DIR` in read step 1 is that of SETDIR. -/
theorem readStep1_eq_setDir (s : State) : readStep1 s = setDir .input s := by
  cases h : s.dir <;> simp [readStep1, setDir, h]

/-- The sequencer's own test of `DIR` in write step 1 is that of SETDIR. -/
theorem writeStep1_eq_setDir (s : State) : writeStep1 s = setDir .output s := by
  cases h : s.dir <;> simp [writeStep1, setDir, h]

theorem extends_numberedStep (q : Seq) (s : State) : Extends s (numberedStep q s) := by
  cases q with
  | idle => exact .refl s
  | ini => exact kept_initStep s
  | rd1 =>
    rw [numberedStep, readStep1_eq_setDir]
    exact extends_setDir .input s
  | rd5 => exact extends_sample s
  | wr1 =>
    rw [numberedStep, writeStep1_eq_setDir]
    exact extends_setDir .output s
  | wr3 => exact extends_andThen (extends_run _ s) (extends_run _)
  | wr6 => exact extends_drive _ s
  | wr10 =>
    rw [numberedStep, writeStep10]
    split
    · exact extends_run _ s
    · exact .refl s
  | rd2 | rd3 | rd4 | rd6 | wr2 | wr4 | wr5 | wr7 | wr8 | wr9 => exact extends_run _ s

theorem extends_seqStep (s : State) : Extends s (seqStep s) :=
  seqStep_eq s ▸ extends_andThen (extends_numberedStep s.seq s) (extends_goto _)

theorem extends_finishWithin (n : Nat) (s : State) : Extends s (finishWithin n s) := by
  induction n generalizing s with
  | zero => exact .refl s
  | succ n ih =>
    unfold finishWithin
    split
    · exact .refl s
    · exact extends_andThen (extends_seqStep s) ih

theorem extends_exec (i : Instr) (s : State) : Extends s (exec i s) := by
  have hcommand (q : Seq) (a : Addr) (d : Byte) (u : State) :
      Extends u (andThen (accept q a d u) finish) :=
    extends_andThen (extends_accept q a d u) (extends_finishWithin 10)
  cases i with
  | init a d => exact hcommand .ini a d s
  | read a d => exact extends_andThen (extends_needInited s) (hcommand .rd1 a d)
  | write a d => exact extends_andThen (extends_needInited s) (hcommand .wr1 a d)
  | latch a d => exact extends_run _ s
  | setdir a d => exact extends_setDir _ s
  | drive a d => exact extends_drive _ s
  | sample a d => exact extends_sample s

/-- How many numbered steps are left at a position (10_state.md R34). -/
def Seq.left : Seq → Nat
  | .idle => 0
  | .ini => 1
  | .rd1 => 6 | .rd2 => 5 | .rd3 => 4 | .rd4 => 3 | .rd5 => 2 | .rd6 => 1
  | .wr1 => 10 | .wr2 => 9 | .wr3 => 8 | .wr4 => 7 | .wr5 => 6 | .wr6 => 5 | .wr7 => 4
  | .wr8 => 3 | .wr9 => 2 | .wr10 => 1

theorem Seq.left_le_ten (q : Seq) : q.left ≤ 10 := by cases q <;> decide

theorem Seq.left_eq_zero (q : Seq) (h : q.left = 0) : q = .idle := by
  cases q with
  | idle => rfl
  | _ => cases h

theorem Seq.left_next (q : Seq) : q.next.left = q.left - 1 := by cases q <;> rfl

/-- An induction along the sequencer: what each numbered step carries on to the next position holds, at
`IDLE`, when the command has returned. -/
theorem finishWithin_induction (P : State → Prop) (hP : ∀ s t, seqStep s = .next t → P s → P t)
    (n : Nat) (s t : State) (hn : s.seq.left ≤ n) (h : finishWithin n s = .next t) (hs : P s) :
    t.seq = .idle ∧ P t := by
  induction n generalizing s with
  | zero =>
    cases h
    exact ⟨Seq.left_eq_zero _ (Nat.le_zero.1 hn), hs⟩
  | succ n ih =>
    by_cases hidle : s.seq = .idle
    · rw [finishWithin_idle _ s hidle] at h
      cases h
      exact ⟨hidle, hs⟩
    · rw [finishWithin_succ n s hidle] at h
      obtain ⟨u, hu, hut⟩ := (andThen_eq_next _ _ _).1 h
      have huseq : u.seq = s.seq.next := by
        obtain ⟨w, -, rfl⟩ := (seqStep_eq_next s u).1 hu
        rfl
      exact ih u (by rw [huseq, Seq.left_next]; omega) hut (hP s u hu hs)

theorem finish_induction (P : State → Prop) (hP : ∀ s t, seqStep s = .next t → P s → P t)
    (s t : State) (h : finish s = .next t) (hs : P s) : t.seq = .idle ∧ P t :=
  finishWithin_induction P hP 10 s t s.seq.left_le_ten h hs

theorem finish_seq (s t : State) (h : finish s = .next t) : t.seq = .idle :=
  (finish_induction (fun _ => True) (fun _ _ _ _ => trivial) s t h trivial).1

end Sys2Proof.Machine
end
section
/-! The lines between and inside commands (10_state.md R45): what each numbered step does to them, and what
holds of them at each position of `SEQ`. -/

namespace Sys2Proof.Machine

/-- The lines after INIT, whatever they were (42_controller.md R162). -/
def Lines.safe (l : Lines) : Lines where
  rclk := false
  srclk := false
  ser := false
  ceN := true
  oeN := true
  weN := true
  dout := l.dout
  dir := .input

/-- The lines after a LATCH of `a` (40_address_latch.md R123). -/
def Lines.latched (a : Addr) (l : Lines) : Lines :=
  { l with rclk := true, srclk := false, ser := (lowByte a).getLsbD 0 }

/-- What the numbered step at a position does to the lines, in a run with the parameters, the address and
the data of `s` (42_controller.md R162 to R181). -/
def numberedLines (s : State) (l : Lines) : Seq → Lines
  | .idle | .rd4 | .rd5 | .wr7 => l
  | .ini => l.safe
  | .rd1 => { l with dir := .input }
  | .rd2 | .wr3 => l.latched s.cmdAddr
  | .rd3 => { l with ceN := false, oeN := false }
  | .rd6 => { l with ceN := true, oeN := true }
  | .wr1 => { l with dir := .output }
  | .wr2 => { l with oeN := true }
  | .wr4 => { l with ceN := false }
  | .wr5 => { l with weN := false }
  | .wr6 => { l with dout := s.cmdData }
  | .wr8 => { l with weN := true }
  | .wr9 => { l with ceN := true }
  | .wr10 => { l with oeN := if s.params.oeReassert then false else l.oeN }

theorem latch_lines (a : Addr) (s t : State) (h : latch a s = .next t) :
    t.lines = s.lines.latched a :=
  (run_lines _ s t h).trans (linesAfter_latchActions a s.lines)

theorem drive_lines (v : Byte) (s t : State) (h : drive v s = .next t) :
    t.lines = { s.lines with dout := v } :=
  (run_lines _ s t ((drive_eq_next v s t).1 h).2).trans (linesAfter_driveActions v s.lines)

theorem sample_lines (s t : State) (h : sample s = .next t) : t.lines = s.lines :=
  run_lines _ s t ((sample_eq_next s t).1 h).2

theorem numberedStep_lines (q : Seq) (s t : State) (h : numberedStep q s = .next t) :
    t.lines = numberedLines s s.lines q := by
  cases q with
  | idle =>
    cases h
    rfl
  | ini =>
    cases h
    exact foldl_apply_lines initActions s
  | rd1 =>
    rw [numberedStep, readStep1_eq_setDir] at h
    exact setDir_lines .input s t h
  | rd2 => exact latch_lines s.cmdAddr s t h
  | rd5 => exact sample_lines s t h
  | wr1 =>
    rw [numberedStep, writeStep1_eq_setDir] at h
    exact setDir_lines .output s t h
  | wr3 =>
    obtain ⟨u, hu, hut⟩ := (andThen_eq_next _ _ _).1 h
    exact (run_lines _ u t hut).trans (latch_lines s.cmdAddr s u hu)
  | wr6 => exact drive_lines s.cmdData s t h
  | wr10 =>
    rw [numberedStep, writeStep10] at h
    split at h
    · rename_i hre
      rw [run_lines _ s t h, numberedLines, if_pos hre]
      rfl
    · rename_i hre
      cases h
      rw [numberedLines, if_neg hre]
  | rd3 | rd4 | rd6 | wr2 | wr4 | wr5 | wr7 | wr8 | wr9 => exact run_lines _ s t h

/-- What holds of the lines at each position of a command, on the way from the idle invariants back to
them (10_state.md R45); nothing is asked before INIT's one step. -/
def LinesAt (p : Params) (l : Lines) : Seq → Prop
  | .idle => l.ceN = true ∧ l.weN = true ∧ l.srclk = false ∧
      ((l.oeN = true ∧ l.dir = .input) ∨ (l.oeN = !p.oeReassert ∧ l.dir = .output))
  | .ini => True
  | .rd1 => l.weN = true ∧ l.srclk = false
  | .rd2 | .rd3 | .rd4 | .rd5 | .rd6 => l.weN = true ∧ l.srclk = false ∧ l.dir = .input
  | .wr1 => l.srclk = false
  | .wr2 => l.srclk = false ∧ l.dir = .output
  | .wr3 | .wr4 | .wr5 | .wr6 | .wr7 | .wr8 => l.srclk = false ∧ l.dir = .output ∧ l.oeN = true
  | .wr9 => l.srclk = false ∧ l.dir = .output ∧ l.oeN = true ∧ l.weN = true
  | .wr10 => l.srclk = false ∧ l.dir = .output ∧ l.oeN = true ∧ l.weN = true ∧ l.ceN = true

/-- Each numbered step leads from its own position's lines to the next one's. -/
theorem numberedLines_linesAt (s : State) (l : Lines) (q : Seq) (h : LinesAt s.params l q) :
    LinesAt s.params (numberedLines s l q) q.next := by
  cases q with
  | ini => exact ⟨rfl, rfl, rfl, .inl ⟨rfl, rfl⟩⟩
  | rd6 =>
    obtain ⟨hwe, hsrclk, hdir⟩ := h
    exact ⟨rfl, hwe, hsrclk, .inl ⟨rfl, hdir⟩⟩
  | wr10 =>
    obtain ⟨hsrclk, hdir, hoe, hwe, hce⟩ := h
    refine ⟨hce, hwe, hsrclk, .inr ⟨?_, hdir⟩⟩
    cases hre : s.params.oeReassert <;> simp [numberedLines, hre, hoe]
  | idle => exact h
  | _ => simp_all [LinesAt, numberedLines, Lines.latched, Seq.next]

/-- A state whose lines are those of its position. -/
abbrev InCommand (s : State) : Prop := LinesAt s.params s.lines s.seq

theorem seqStep_inCommand (s t : State) (h : seqStep s = .next t) (hs : InCommand s) : InCommand t := by
  obtain ⟨u, hu, rfl⟩ := (seqStep_eq_next s t).1 h
  have hparams : u.params = s.params := by
    have hkept := extends_numberedStep s.seq s
    rw [hu] at hkept
    exact hkept.params
  have hlines : u.lines = numberedLines s s.lines s.seq := numberedStep_lines _ s u hu
  have hnext := numberedLines_linesAt s s.lines s.seq hs
  rw [← hlines, ← hparams] at hnext
  exact hnext

theorem inCommand_idle (s : State) (h : s.seq = .idle) (hi : s.inited = true) :
    InCommand s ↔ Ready s ∧ IdlePair s := by
  simp only [InCommand, LinesAt, h, hi, State.lines, true_and, and_assoc]

/-- All that a command handed over at the port does: it is accepted at `IDLE`, READ and WRITE only once
INITED, and runs to its return (10_state.md R35; 70_reset_and_hazards.md R232). -/
theorem exec_command_eq_next (i : Instr) (s t : State) (hi : i.isCommand = true)
    (h : exec i s = .next t) :
    ∃ q, s.seq = .idle ∧ (q = .ini ∨ s.inited = true ∧ (q = .rd1 ∨ q = .wr1)) ∧
      finish { s with cmdAddr := i.addr, cmdData := i.data, seq := q } = .next t := by
  have haccept (q : Seq) (h : andThen (accept q i.addr i.data s) finish = .next t) :
      s.seq = .idle ∧ finish { s with cmdAddr := i.addr, cmdData := i.data, seq := q } = .next t := by
    obtain ⟨u, hu, hut⟩ := (andThen_eq_next _ _ _).1 h
    obtain ⟨hidle, rfl⟩ := (accept_eq_next _ _ _ _ _).1 hu
    exact ⟨hidle, hut⟩
  have hguard (q : Seq)
      (h : andThen (needInited s) (fun s => andThen (accept q i.addr i.data s) finish) = .next t) :
      s.inited = true ∧ s.seq = .idle ∧
        finish { s with cmdAddr := i.addr, cmdData := i.data, seq := q } = .next t := by
    obtain ⟨u, hu, hut⟩ := (andThen_eq_next _ _ _).1 h
    obtain ⟨hinited, rfl⟩ := (needInited_eq_next _ _).1 hu
    exact ⟨hinited, haccept q hut⟩
  cases i with
  | init a d =>
    obtain ⟨hidle, hfin⟩ := haccept .ini h
    exact ⟨.ini, hidle, .inl rfl, hfin⟩
  | read a d =>
    obtain ⟨hinited, hidle, hfin⟩ := hguard .rd1 h
    exact ⟨.rd1, hidle, .inr ⟨hinited, .inl rfl⟩, hfin⟩
  | write a d =>
    obtain ⟨hinited, hidle, hfin⟩ := hguard .wr1 h
    exact ⟨.wr1, hidle, .inr ⟨hinited, .inr rfl⟩, hfin⟩
  | latch a d | setdir a d | drive a d | sample a d => cases hi

end Sys2Proof.Machine
end
section
/-! Every step: what it keeps, where it ends, what its faults leave, and the run invariant. -/

namespace Sys2Proof.Machine

/-- At `IDLE` with a move left, a step is the operation of that move (10_state.md R35). -/
theorem step_of_move (s : State) (m : Move) (rest : List Move) (i : Instr) (hf : s.faultMark = none)
    (hs : s.seq = .idle) (hp : s.port = m :: rest) (hi : m.decode = .ok i) :
    step s = exec i { s with port := rest } := by
  simp [step, hf, hs, hp, hi, takeMove]

/-- All that one step can do when it faults. -/
theorem step_eq_fault (s : State) (f : Fault) (h : step s = .fault f) :
    (∃ v, raise v s = .fault f) ∨ (∃ i, exec i (takeMove s) = .fault f) ∨ finish s = .fault f := by
  unfold step at h
  split at h
  · exact .inl ⟨_, h⟩
  · split at h
    · split at h
      · cases h
      · split at h
        · exact .inr (.inl ⟨_, h⟩)
        · cases h
    · exact .inr (.inr h)

/-- A fault leaves the mark of its verdict, and a step from the state it leaves answers it again. -/
theorem Extends.fault_again {s : State} {r : Result} {f : Fault} (hr : Extends s r) (h : r = .fault f) :
    f.left.faultMark = some f.verdict ∧ s.trace <+: f.left.trace ∧ step f.left = .fault f := by
  subst h
  obtain ⟨hmark, htrace⟩ := hr
  refine ⟨hmark, htrace, ?_⟩
  rw [step_marked _ _ hmark]
  cases f <;> rfl

theorem Extends.kept {s t : State} {r : Result} (hr : Extends s r) (h : r = .next t) : Kept s t := by
  subst h
  exact hr

/-- A step keeps the bookkeeping; of the port, a step at `IDLE` takes the first move. -/
theorem step_kept (s t : State) (h : step s = .next t) :
    Kept { s with port := if s.seq = .idle then s.port.tail else s.port } t := by
  obtain ⟨-, ⟨hidle, hport, rfl⟩ | ⟨hidle, m, rest, i, -, -, hexec⟩ | ⟨hbusy, hfin⟩⟩ :=
    step_eq_next s t h
  · exact ⟨rfl, rfl, by simp [hidle, hport], id, List.prefix_rfl, id⟩
  · rw [if_pos hidle]
    exact (extends_exec i (takeMove s)).kept hexec
  · rw [if_neg hbusy]
    exact (extends_finishWithin 10 s).kept hfin

/-- An operation run at `IDLE` ends there: a command by its return, a sub-operation by leaving `SEQ`. -/
theorem exec_seq (i : Instr) (s t : State) (hs : s.seq = .idle) (h : exec i s = .next t) :
    t.seq = .idle := by
  cases hi : i.isCommand with
  | true =>
    obtain ⟨q, -, -, hfin⟩ := exec_command_eq_next i s t hi h
    exact finish_seq _ t hfin
  | false =>
    cases i with
    | latch a d => exact (run_seq _ s t h).trans hs
    | setdir a d => exact (setDir_seq _ s t h).trans hs
    | drive a d => exact (run_seq _ s t ((drive_eq_next d s t).1 h).2).trans hs
    | sample a d => exact (run_seq _ s t ((sample_eq_next s t).1 h).2).trans hs
    | init a d | read a d | write a d => cases hi

theorem step_seq (s t : State) (h : step s = .next t) : t.seq = .idle := by
  obtain ⟨-, ⟨hidle, -, rfl⟩ | ⟨hidle, m, rest, i, -, -, hexec⟩ | ⟨-, hfin⟩⟩ :=
    step_eq_next s t h
  · exact hidle
  · exact exec_seq i (takeMove s) t hidle hexec
  · exact finish_seq s t hfin

/-- What the decoder of the command port accepts is a host command (30_encoding.md R104). -/
theorem isCommand_of_decodeHost (w : Command) (i : Instr) (h : decodeHost w = .ok i) :
    i.isCommand = true := by
  unfold decodeHost at h
  split at h
  · split at h
    · cases h
    · rename_i hi
      cases h
      simpa [Instr.isCommand] using hi
  · cases h

/-- A command from the idle invariants ends with the lines in them (10_state.md R45). -/
theorem exec_command_inCommand (i : Instr) (s t : State) (hi : i.isCommand = true)
    (hs : s.inited = true → Ready s ∧ IdlePair s) (h : exec i s = .next t) : InCommand t := by
  obtain ⟨q, -, hq, hfin⟩ := exec_command_eq_next i s t hi h
  refine (finish_induction InCommand seqStep_inCommand _ t hfin ?_).2
  obtain rfl | ⟨hinited, hq⟩ := hq
  · trivial
  · obtain ⟨⟨-, -, -, hwe, hsrclk⟩, -⟩ := hs hinited
    obtain rfl | rfl := hq
    · exact ⟨hwe, hsrclk⟩
    · exact hsrclk

theorem step_runInv (s t : State) (hs : RunInv s) (h : step s = .next t) : RunInv t := by
  obtain ⟨hmark, hidle, hhost, hmem, hlines⟩ := hs
  have hkept := step_kept s t h
  rw [if_pos hidle] at hkept
  refine ⟨hkept.faultMark.trans hmark, step_seq s t h, fun m hm => hhost m ?_, hkept.memWf hmem, ?_⟩
  · rw [hkept.port] at hm
    exact List.mem_of_mem_tail hm
  intro hinited
  refine (inCommand_idle t (step_seq s t h) hinited).1 ?_
  obtain ⟨-, ⟨-, -, rfl⟩ | ⟨-, m, rest, i, hport, hi, hexec⟩ | ⟨hbusy, -⟩⟩ :=
    step_eq_next s t h
  · exact (inCommand_idle t hidle hinited).2 (hlines hinited)
  · have hissuer : m.issuer = .host := hhost m (hport ▸ List.mem_cons_self ..)
    rw [Move.decode, hissuer] at hi
    exact exec_command_inCommand i (takeMove s) t (isCommand_of_decodeHost _ _ hi) hlines hexec
  · exact absurd hidle hbusy

/-- The lines judged badly before an action: it does not happen. -/
theorem act_of_violation (a : Action) (s : State) (v : Verdict) (h : violation s = some v) :
    act a s = raise v s := by
  rw [act, h]

/-- The lines judged badly after an action: it has happened. -/
theorem act_of_violation_after (a : Action) (s : State) (v : Verdict) (hv : violation s = none)
    (hu : unmodelled a s = false) (h : violation (a.apply s) = some v) :
    act a s = raise v (a.apply s) := by
  simp [act, hv, hu, h]

theorem violation_of_oeWeLow (s : State) (ho : s.oeN = false) (hw : s.weN = false) :
    violation s = some .oeWeOverlap := by
  simp [violation, oeWeLow, ho, hw]

/-- Contention leaves no room for the other verdict: the chip drives only while `WE_n = 1`. -/
theorem violation_of_contention (s : State) (hcore : coreDrives s = true) (hchip : chipDrives s = true) :
    violation s = some .busContention := by
  have hw : s.weN = true := by
    simp only [chipDrives, Bool.and_eq_true] at hchip
    exact hchip.2
  simp [violation, oeWeLow, contention, hcore, hchip, hw]

/-- A command handed to a busy CORE (93_implementation_defined.md U24). -/
theorem accept_busy (q : Seq) (a : Addr) (d : Byte) (s : State) (h : s.seq ≠ .idle) :
    accept q a d s = .refused .busy := by
  rw [accept, if_neg h]

/-- Whoever may issue a word issues it, so the move asks for the operation the word decodes to. -/
theorem moveOf_decode (w : Command) (i : Instr) (h : Sys2Proof.decode w = .ok i) :
    (moveOf w).decode = .ok i := by
  cases hi : i.internal <;> simp [moveOf, Move.decode, decodeHost, decodeCall, h, hi]

/-- A number that gives an operation gives its word. -/
theorem decode_tableWord (nbits w : Nat) (i : Instr) (h : decodeTableWord nbits w = some i) :
    Sys2Proof.decode (tableWord nbits w) = .ok i := by
  unfold decodeTableWord at h
  split at h
  · split at h
    · rename_i j hj
      cases h
      exact hj
    · cases h
  · cases h

end Sys2Proof.Machine
end

section
/-! The obligations of 10_state.md. -/

namespace Sys2Proof.Proofs

open Sys2Proof.Machine

/-- Settles O56: the lines of each position lead to those of the next (`numberedLines_linesAt`), so a
command that begins in the idle invariants returns to them. -/
theorem runInvariantIsKept : Obligations.RunInvariantIsKept := by
  unfold Obligations.RunInvariantIsKept
  exact step_runInv

/-- Settles O12: ten numbered steps reach the return from every position. -/
theorem everyStepReturnsToIdle : Obligations.EveryStepReturnsToIdle := by
  unfold Obligations.EveryStepReturnsToIdle
  exact step_seq

/-- Settles O13: a step of the sequencer ends with its move to the next position. -/
theorem sequencerCountsForward : Obligations.SequencerCountsForward := by
  unfold Obligations.SequencerCountsForward
  intro s t h
  obtain ⟨u, -, rfl⟩ := (seqStep_eq_next s t).1 h
  rfl

/-- Settles O18: the rise shifts `SER` in, which doubles the stage and adds the bit. -/
theorem shiftEdgeTakesOneBit : Obligations.ShiftEdgeTakesOneBit := by
  unfold Obligations.ShiftEdgeTakesOneBit
  intro a s
  refine ⟨fun ha hs => ?_, fun h => by rw [apply_sr, if_neg h]⟩
  have hsr : (a.apply s).sr = shiftIn s.sr s.ser := by rw [apply_sr, if_pos ⟨ha, hs⟩]
  exact ⟨hsr, by rw [hsr, shiftIn_toNat]⟩

/-- Settles O19: the rise takes the whole shift stage, so the pins take its low 15 bits. -/
theorem latchEdgeTakesTheShiftStage : Obligations.LatchEdgeTakesTheShiftStage := by
  unfold Obligations.LatchEdgeTakesTheShiftStage
  intro a s
  refine ⟨fun ha hs => ?_, fun h => by rw [apply_al, if_neg h]⟩
  have hal : (a.apply s).al = s.sr := by rw [apply_al, if_pos ⟨ha, hs⟩]
  exact ⟨hal, by rw [addressPins, hal]⟩

/-- Settles O21: the verdict on the lines before an action and on those after it. -/
theorem forbiddenLinesFault : Obligations.ForbiddenLinesFault := by
  unfold Obligations.ForbiddenLinesFault
  intro a s
  refine ⟨fun t ht => ?_, fun ho hw => ?_, fun hcore hchip => ?_, fun hv hu =>
    ⟨fun ho hw => ?_, fun hcore hchip => ?_⟩⟩
  · obtain ⟨-, -, hafter, rfl⟩ := (act_eq_next a s t).1 ht
    constructor
    · rintro ⟨ho, hw⟩
      simp [violation_of_oeWeLow _ ho hw] at hafter
    · rintro ⟨hcore, hchip⟩
      simp [violation_of_contention _ hcore hchip] at hafter
  · exact act_of_violation a s _ (violation_of_oeWeLow s ho hw)
  · exact act_of_violation a s _ (violation_of_contention s hcore hchip)
  · exact act_of_violation_after a s _ hv hu (violation_of_oeWeLow _ ho hw)
  · exact act_of_violation_after a s _ hv hu (violation_of_contention _ hcore hchip)

/-- Settles O46: no operation moves these fields, and only taking a move shortens the port. -/
theorem bookkeepingIsKept : Obligations.BookkeepingIsKept := by
  unfold Obligations.BookkeepingIsKept
  intro s t h
  obtain ⟨hparams, hmark, hport, hinited, htrace, -⟩ := step_kept s t h
  exact ⟨hparams, hmark, hinited, htrace, hport⟩

/-- Settles O60: every fault is raised by `raise`, which sets the mark in a state that has kept the
trace. -/
theorem everyFaultSetsTheMark : Obligations.EveryFaultSetsTheMark := by
  unfold Obligations.EveryFaultSetsTheMark
  refine ⟨fun i s f h => (extends_exec i s).fault_again h, fun s f h => ?_⟩
  obtain ⟨v, hraise⟩ | ⟨i, hexec⟩ | hfin := step_eq_fault s f h
  · exact (extends_raise v s).fault_again hraise
  · exact (extends_exec i (takeMove s)).fault_again hexec
  · exact (extends_finishWithin 10 s).fault_again hfin

/-- Settles O7: with no mark and `SEQ` at `IDLE` only the port is looked at. -/
theorem stepRunsTheDecodedMove : Obligations.StepRunsTheDecodedMove := by
  unfold Obligations.StepRunsTheDecodedMove
  exact step_of_move

/-- Settles O8: the word is offered first, by whoever may issue it. -/
theorem fetchWordIsRunNext : Obligations.FetchWordIsRunNext := by
  unfold Obligations.FetchWordIsRunNext
  intro s nbits w i hf hw
  exact step_of_move _ _ s.port i hf rfl rfl (moveOf_decode _ i (decode_tableWord nbits w i hw))

/-- Settles O11: marking again with the same verdict changes nothing. -/
theorem faultMarkIsSticky : Obligations.FaultMarkIsSticky := by
  unfold Obligations.FaultMarkIsSticky
  exact step_marked

/-- Settles O14: all three commands are refused at their acceptance. -/
theorem busyCoreRefusesCommands : Obligations.BusyCoreRefusesCommands := by
  unfold Obligations.BusyCoreRefusesCommands
  intro a d s hs
  have hbusy (q : Seq) : andThen (accept q a d s) finish = .refused .busy := by
    rw [accept_busy q a d s hs, andThen_refused]
  have hguarded (q : Seq) (hi : s.inited = true) :
      andThen (needInited s) (fun s => andThen (accept q a d s) finish) = .refused .busy := by
    rw [needInited, if_pos hi, andThen_next, hbusy]
  exact ⟨hbusy .ini, hguarded .rd1, hguarded .wr1⟩

/-- Settles O54: with no cell listed, every cell reads the erased byte. -/
theorem powerUpState : Obligations.PowerUpState := by
  unfold Obligations.PowerUpState
  exact ⟨rfl, rfl, rfl, rfl, by decide, fun _ => rfl⟩

/-- Settles O55: with an empty port and no cell listed, and nothing asked before INIT. -/
theorem runInvariantAtReset : Obligations.RunInvariantAtReset := by
  unfold Obligations.RunInvariantAtReset
  exact ⟨rfl, rfl, nofun, rfl, nofun⟩

end Sys2Proof.Proofs
end

section
/-! One action on lines that stand well, and the end of a write pulse (20_memory.md R73 to R77). -/

namespace Sys2Proof.Machine

/-- Every waveform without a meaning has write-enable low (20_memory.md R77). -/
theorem unmodelled_weHigh (a : Action) (s : State) (hw : s.weN = true) : unmodelled a s = false := by
  unfold unmodelled
  split <;> simp [hw]

/-- A waveform without a meaning, met on lines that stand well. -/
theorem act_of_unmodelled (a : Action) (s : State) (hv : violation s = none)
    (hu : unmodelled a s = true) : act a s = .refused .unmodelledWaveform := by
  simp [act, hv, hu]

theorem run_singleton (a : Action) (s : State) : run [a] s = act a s := by
  rw [run_cons]
  cases act a s <;> rfl

/-- One action and the wait after it, as most steps of the sequencer have them. -/
theorem run_act_wait (a : Action) (n : Nat) (s : State) (hv : violation s = none)
    (hu : unmodelled a s = false) (hw : violation (a.apply s) = none) :
    run [a, .wait n] s = .next (emit (.wait n) (a.apply s)) := by
  rw [run_cons, act_ok a s hv hu hw, andThen_next, run_singleton, act_wait n _ hw]

/-- SETDIR where neither direction makes a forbidden state (41_data_bus.md R141, R143). -/
theorem setDir_ok (d : Dir) (s : State) (hv : violation s = none)
    (hw : violation { s with dir := d } = none) :
    setDir d s = .next { s with
      dir := d, trace := if s.dir = d then s.trace else s.trace ++ [.dir d] } := by
  by_cases hd : s.dir = d
  · simp [setDir, ← hd]
  · rw [setDir, if_neg hd, act_ok (.dirset d) s hv rfl hw]
    simp [Action.apply, emit, hd]

/-- DRIVE on lines that stand well leaves its byte on the data lines (41_data_bus.md R145). -/
theorem drive_ok (v : Byte) (s : State) (hd : s.dir = .output) (hv : violation s = none) :
    drive v s = .next { s with dout := v, trace := s.trace ++ driveEvents v } := by
  rw [drive, if_pos hd, driveActions, run_drives v lsbFirst s hv, setBit_lsbFirst, driveEvents]

/-- SAMPLE while the bus is held at `v` (41_data_bus.md R148). -/
theorem sample_driven (v : Byte) (s : State) (hd : s.dir = .input) (hv : violation s = none)
    (hb : bus s = .driven v) :
    sample s = .next { s with rdata := v, trace := s.trace ++ sampleEvents v } := by
  rw [sample, if_pos hd, sampleActions, run_samples v msbFirst s hv hb, setBit_msbFirst, sampleEvents]

/-- With output-enable high the chip does not drive (20_memory.md R71). -/
theorem chipDrives_oeHigh (s : State) (ho : s.oeN = true) : chipDrives s = false := by
  simp [chipDrives, ho]

/-- CORE alone drives the lines to `DOUT` (20_memory.md R71). -/
theorem bus_core (s : State) (hd : s.dir = .output) (hc : chipDrives s = false) :
    bus s = .driven s.dout := by
  simp [bus, coreDrives, hd, hc]

/-- The chip alone drives the lines to the addressed cell (20_memory.md R71, R72). -/
theorem bus_chip (s : State) (hd : s.dir = .input) (hc : chipDrives s = true) :
    bus s = .driven (memRead s (addressPins s)) := by
  simp [bus, coreDrives, hd, hc]

/-- With nobody driving the lines float (20_memory.md R71). -/
theorem bus_nobody (s : State) (hd : s.dir = .input) (hc : chipDrives s = false) :
    bus s = .floating := by
  simp [bus, coreDrives, hd, hc]

/-- CORE drives unless its bus listens (20_memory.md R71). -/
theorem coreDrives_eq_false (s : State) : coreDrives s = false ↔ s.dir = .input := by
  cases hd : s.dir <;> simp [coreDrives, hd]

theorem busByte_driven (s : State) (v : Byte) (hb : bus s = .driven v) : busByte s = (v, s) := by
  simp [busByte, hb]

theorem busByte_floating (s : State) (hb : bus s = .floating) :
    busByte s = (Config.freeByte s.draws, { s with draws := s.draws + 1 }) := by
  simp [busByte, hb]

/-- A chip that is there and commits stores the byte then on the bus (20_memory.md R73). -/
theorem commit_stores (s : State) (hp : s.params.chipPresent = true)
    (hc : s.params.chipCommits = true) :
    commit s = memWrite (addressPins s) (busByte s).1 (busByte s).2 := by
  simp [commit, hp, hc]

/-- A chip that is absent or does not commit stores nothing (20_memory.md R74, R75). -/
theorem commit_nothing (s : State) (h : (s.params.chipPresent && s.params.chipCommits) = false) :
    commit s = s := by
  simp [commit, h]

/-- While CORE alone drives, a commit stores `DOUT` in the addressed cell, if the chip commits at all. -/
theorem commit_core (s : State) (hd : s.dir = .output) (hc : chipDrives s = false) :
    commit s = { s with
      mem := if s.params.chipPresent && s.params.chipCommits then
        (memWrite (addressPins s) s.dout s).mem else s.mem } := by
  rw [commit, busByte_driven s s.dout (bus_core s hd hc)]
  split <;> rfl

/-- The rise of write-enable with the chip selected is the commit (20_memory.md R73). -/
theorem apply_weN_rise (s : State) (hw : s.weN = false) (hc : s.ceN = false) :
    (Action.pin .weN true).apply s = { s with
      mem := (commit s).mem, draws := (commit s).draws, weN := true,
      trace := s.trace ++ [.pin .weN true] } := by
  rw [Action.apply, writePin_weN_rise s hw hc, emit]

/-- The end of a long enough write pulse (20_memory.md R73, R77). -/
theorem act_weN_rise (s : State) (hw : s.weN = false) (hc : s.ceN = false) (ho : s.oeN = true)
    (ht : s.params.tSettle + s.params.tWp ≤ pulseTime s.trace) :
    act (.pin .weN true) s = .next { s with
      mem := (commit s).mem, draws := (commit s).draws, weN := true,
      trace := s.trace ++ [.pin .weN true] } := by
  have hlong : unmodelled (.pin .weN true) s = false := by simp [unmodelled, ht]
  have happly := apply_weN_rise s hw hc
  rw [act_ok _ s (violation_oeHigh s ho) hlong (by rw [happly]; exact violation_oeHigh _ ho), happly]

end Sys2Proof.Machine
end

section
/-! LATCH to just before its last edge, and its end (40_address_latch.md R121, R123). -/

namespace Sys2Proof.Machine

/-- The events of a LATCH but its last: high byte first (40_address_latch.md R121). -/
def latchLead (a : Addr) : List Event :=
  .pin .rclk false ::
    ((msbFirst.flatMap fun (i : Fin 8) => pulseEvents ((highByte a).getLsbD i.val)) ++
      msbFirst.flatMap fun (i : Fin 8) => pulseEvents ((lowByte a).getLsbD i.val))

theorem latchEvents_eq_lead (a : Addr) : latchEvents a = latchLead a ++ [.pin .rclk true] := by
  simp [latchEvents, latchLead, msbFirst, List.range_succ, highByte, lowByte]

/-- At the last edge of a LATCH the shift stage holds the address and the output stage what it held. -/
theorem latch_eq_lastEdge (a : Addr) (s : State) (hs : s.srclk = false) (hv : violation s = none) :
    latch a s = act (.pin .rclk true) { s with
      sr := a, ser := a.getLsbD 0, rclk := false, trace := s.trace ++ latchLead a } := by
  have hlow : unmodelled (.pin .rclk false) s = false := by simp [unmodelled]
  have hser : (lowByte a).getLsbD 0 = a.getLsbD 0 := by simp [lowByte]
  rw [latch, latchActions, run_cons, act_ok _ s hv hlow hv, andThen_next,
    run_append, run_shiftOut8 _ _ (by exact hv) (by exact hs), andThen_next,
    run_append, run_shiftOut8 _ _ (by exact hv) (by exact hs), andThen_next, run_singleton]
  simp only [shiftInByte_twice, Action.apply, writePin, emit, hser, latchLead]
  simp

/-- LATCH outside a write pulse (40_address_latch.md R123). -/
theorem latch_ok (a : Addr) (s : State) (hs : s.srclk = false) (hv : violation s = none)
    (hp : NoPulse s) :
    latch a s = .next { s with
      sr := a, al := a, ser := a.getLsbD 0, rclk := true, srclk := false,
      trace := s.trace ++ latchEvents a } := by
  rw [latch_eq_lastEdge a s hs hv, act_ok _ _ (by exact hv) ?_ (by exact hv)]
  · simp [Action.apply, writePin, emit, latchEvents_eq_lead, hs]
  · rcases hp with h | h <;> simp [unmodelled, h]

end Sys2Proof.Machine
end

section
/-! A command from its acceptance, one numbered step after the other (10_state.md R35, R36). -/

namespace Sys2Proof.Machine

/-- One more step than a position has left changes nothing. -/
theorem finishWithin_enough (n : Nat) (s : State) (hn : s.seq.left ≤ n) :
    finishWithin (n + 1) s = finishWithin n s := by
  induction n generalizing s with
  | zero =>
    have hidle := Seq.left_eq_zero _ (Nat.le_zero.1 hn)
    rw [finishWithin_idle _ s hidle, finishWithin_idle _ s hidle]
  | succ n ih =>
    by_cases hidle : s.seq = .idle
    · rw [finishWithin_idle _ s hidle, finishWithin_idle _ s hidle]
    rw [finishWithin_succ _ s hidle, finishWithin_succ _ s hidle]
    cases hu : seqStep s with
    | next u =>
      obtain ⟨w, -, rfl⟩ := (seqStep_eq_next s u).1 hu
      exact ih _ (by simp only [Seq.left_next]; omega)
    | fault e => rfl
    | refused e => rfl

/-- The command in flight goes on from what the numbered step at its position leaves. -/
theorem finish_through (q : Seq) {s u : State} {r : Result} (hq : s.seq = q) (hidle : q ≠ .idle)
    (h : numberedStep q s = .next u) (hr : finish { u with seq := q.next } = r) : finish s = r := by
  subst hq
  have hstep : seqStep s = .next { u with seq := s.seq.next } := (seqStep_eq_next s _).2 ⟨u, h, rfl⟩
  have hleft : s.seq.next.left ≤ 9 := by
    have := s.seq.left_le_ten
    rw [Seq.left_next]
    omega
  rw [← hr, finish, finishWithin_succ 9 s hidle, hstep, andThen_next]
  exact (finishWithin_enough 9 _ hleft).symm

theorem finish_idle (s : State) (h : s.seq = .idle) : finish s = .next s := finishWithin_idle 10 s h

theorem accept_idle (q : Seq) (a : Addr) (d : Byte) (s : State) (h : s.seq = .idle) :
    accept q a d s = .next { s with cmdAddr := a, cmdData := d, seq := q } :=
  (accept_eq_next q a d s _).2 ⟨h, rfl⟩

theorem execInit_eq_finish (a : Addr) (d : Byte) (s : State) (h : s.seq = .idle) :
    exec (.init a d) s = finish { s with cmdAddr := a, cmdData := d, seq := .ini } := by
  rw [exec, execInit, accept_idle _ a d s h, andThen_next]

theorem execRead_eq_finish (a : Addr) (d : Byte) (s : State) (h : s.seq = .idle)
    (hi : s.inited = true) :
    exec (.read a d) s = finish { s with cmdAddr := a, cmdData := d, seq := .rd1 } := by
  rw [exec, execRead, needInited, if_pos hi, andThen_next, accept_idle _ a d s h, andThen_next]

theorem execWrite_eq_finish (a : Addr) (d : Byte) (s : State) (h : s.seq = .idle)
    (hi : s.inited = true) :
    exec (.write a d) s = finish { s with cmdAddr := a, cmdData := d, seq := .wr1 } := by
  rw [exec, execWrite, needInited, if_pos hi, andThen_next, accept_idle _ a d s h, andThen_next]

end Sys2Proof.Machine
end

section
/-! The numbered steps of READ and WRITE where the lines stand as a command leaves them (42_controller.md
R164 to R181). -/

namespace Sys2Proof.Machine

variable (s : State)

/-- The direction is switched with the chip deselected (42_controller.md R164, R172). -/
theorem setDir_deselected (d : Dir) (hc : s.ceN = true) (hw : s.weN = true) :
    setDir d s = .next { s with
      dir := d, trace := if s.dir = d then s.trace else s.trace ++ [.dir d] } :=
  setDir_ok d s (violation_deselected s hc hw) (violation_deselected _ hc hw)

theorem readStep1_ok (hc : s.ceN = true) (hw : s.weN = true) :
    readStep1 s = .next { s with
      dir := .input, trace := s.trace ++ if s.dir = .output then [.dir .input] else [] } := by
  rw [readStep1_eq_setDir, setDir_deselected s .input hc hw]
  cases s.dir <;> simp

theorem readStep2_ok (hs : s.srclk = false) (hv : violation s = none) (hp : NoPulse s) :
    readStep2 s = .next { s with
      sr := s.cmdAddr, al := s.cmdAddr, ser := s.cmdAddr.getLsbD 0, rclk := true, srclk := false,
      trace := s.trace ++ latchEvents s.cmdAddr } :=
  latch_ok s.cmdAddr s hs hv hp

theorem readStep3_ok (hd : s.dir = .input) (hw : s.weN = true) :
    readStep3 s = .next { s with
      ceN := false, oeN := false, trace := s.trace ++ [.pin .ceN false, .pin .oeN false] } := by
  have hce := act_ok (.pin .ceN false) s (violation_listening s hd hw) (unmodelled_weHigh _ s hw)
    (violation_listening _ hd hw)
  have hoe := act_ok (.pin .oeN false) ((Action.pin .ceN false).apply s)
    (violation_listening _ hd hw) rfl (violation_listening _ hd hw)
  rw [readStep3, run_cons, hce, andThen_next, run_singleton, hoe]
  simp [Action.apply, writePin, emit]

theorem readStep4_ok (hd : s.dir = .input) (hw : s.weN = true) :
    readStep4 s = .next { s with trace := s.trace ++ [.wait s.params.tOeValid] } := by
  rw [readStep4, run_singleton, act_wait _ s (violation_listening s hd hw)]
  rfl

theorem readStep5_ok (hd : s.dir = .input) (hw : s.weN = true) (hc : chipDrives s = true) :
    readStep5 s = .next { s with
      rdata := memRead s (addressPins s),
      trace := s.trace ++ sampleEvents (memRead s (addressPins s)) } :=
  sample_driven _ s hd (violation_listening s hd hw) (bus_chip s hd hc)

theorem readStep6_ok (hd : s.dir = .input) (hw : s.weN = true) :
    readStep6 s = .next { s with
      ceN := true, oeN := true,
      trace := s.trace ++ [.pin .ceN true, .pin .oeN true, .wait s.params.tSettle] } := by
  have hce := act_ok (.pin .ceN true) s (violation_listening s hd hw) (unmodelled_weHigh _ s hw)
    (violation_listening _ hd hw)
  have hoe := run_act_wait (.pin .oeN true) s.params.tSettle ((Action.pin .ceN true).apply s)
    (violation_listening _ hd hw) rfl (violation_listening _ hd hw)
  rw [readStep6, run_cons, hce, andThen_next, hoe]
  simp [Action.apply, writePin, emit]

theorem writeStep1_ok (hc : s.ceN = true) (hw : s.weN = true) :
    writeStep1 s = .next { s with
      dir := .output, trace := s.trace ++ if s.dir = .input then [.dir .output] else [] } := by
  rw [writeStep1_eq_setDir, setDir_deselected s .output hc hw]
  cases s.dir <;> simp

theorem writeStep2_ok (hc : s.ceN = true) (hw : s.weN = true) :
    writeStep2 s = .next { s with
      oeN := true, trace := s.trace ++ [.pin .oeN true, .wait s.params.tSettle] } := by
  rw [writeStep2, run_act_wait (.pin .oeN true) _ s (violation_deselected s hc hw) rfl
    (violation_deselected _ hc hw)]
  simp [Action.apply, writePin, emit]

theorem writeStep3_ok (hs : s.srclk = false) (hv : violation s = none) (hp : NoPulse s) :
    writeStep3 s = .next { s with
      sr := s.cmdAddr, al := s.cmdAddr, ser := s.cmdAddr.getLsbD 0, rclk := true, srclk := false,
      trace := s.trace ++ latchEvents s.cmdAddr ++ [.wait s.params.tSettle] } := by
  rw [writeStep3, latch_ok s.cmdAddr s hs hv hp, andThen_next, run_singleton, act_wait _ _ (by exact hv)]
  rfl

theorem writeStep4_ok (ho : s.oeN = true) (hw : s.weN = true) :
    writeStep4 s = .next { s with
      ceN := false, trace := s.trace ++ [.pin .ceN false, .wait s.params.tSettle] } := by
  rw [writeStep4, run_act_wait (.pin .ceN false) _ s (violation_oeHigh s ho) (unmodelled_weHigh _ s hw)
    (violation_oeHigh _ ho)]
  simp [Action.apply, writePin, emit]

theorem writeStep5_ok (ho : s.oeN = true) :
    writeStep5 s = .next { s with
      weN := false, trace := s.trace ++ [.pin .weN false, .wait s.params.tSettle] } := by
  have hlow : unmodelled (.pin .weN false) s = false := by simp [unmodelled]
  have happly : (Action.pin .weN false).apply s =
      { s with weN := false, trace := s.trace ++ [.pin .weN false] } := by
    simp [Action.apply, writePin, emit]
  rw [writeStep5, run_act_wait (.pin .weN false) _ s (violation_oeHigh s ho) hlow
    (by rw [happly]; exact violation_oeHigh _ ho), happly]
  simp [emit]

theorem writeStep6_ok (hd : s.dir = .output) (ho : s.oeN = true) :
    writeStep6 s = .next { s with dout := s.cmdData, trace := s.trace ++ driveEvents s.cmdData } :=
  drive_ok s.cmdData s hd (violation_oeHigh s ho)

theorem writeStep7_ok (ho : s.oeN = true) :
    writeStep7 s = .next { s with trace := s.trace ++ [.wait s.params.tWp] } := by
  rw [writeStep7, run_singleton, act_wait _ s (violation_oeHigh s ho)]
  rfl

/-- The pulse ends with the byte of `DOUT` in the addressed cell (42_controller.md R179). -/
theorem writeStep8_ok (hw : s.weN = false) (hc : s.ceN = false) (ho : s.oeN = true)
    (hd : s.dir = .output) (ht : s.params.tSettle + s.params.tWp ≤ pulseTime s.trace) :
    writeStep8 s = .next { s with
      weN := true,
      mem := if s.params.chipPresent && s.params.chipCommits then
        (memWrite (addressPins s) s.dout s).mem else s.mem,
      trace := s.trace ++ [.pin .weN true, .wait s.params.tSettle] } := by
  rw [writeStep8, run_cons, act_weN_rise s hw hc ho ht, andThen_next,
    commit_core s hd (chipDrives_oeHigh s ho), run_singleton,
    act_wait _ _ (violation_oeHigh _ (by exact ho))]
  simp [emit]

theorem writeStep9_ok (ho : s.oeN = true) (hw : s.weN = true) :
    writeStep9 s = .next { s with
      ceN := true, trace := s.trace ++ [.pin .ceN true, .wait s.params.tSettle] } := by
  rw [writeStep9, run_act_wait (.pin .ceN true) _ s (violation_oeHigh s ho) (unmodelled_weHigh _ s hw)
    (violation_oeHigh _ ho)]
  simp [Action.apply, writePin, emit]

theorem writeStep10_ok (hc : s.ceN = true) (ho : s.oeN = true) (hw : s.weN = true) :
    writeStep10 s = .next { s with
      oeN := !s.params.oeReassert,
      trace := s.trace ++ if s.params.oeReassert then [.pin .oeN false] else [] } := by
  rw [writeStep10]
  cases hr : s.params.oeReassert with
  | true =>
    rw [if_pos rfl, run_singleton, act_ok (.pin .oeN false) s (violation_deselected s hc hw) rfl
      (violation_deselected _ hc hw)]
    simp [Action.apply, writePin, emit]
  | false =>
    have hsame : s = { s with oeN := true } := by rw [← ho]
    simpa using hsame

end Sys2Proof.Machine
end

section
/-! The three commands from their acceptance to their return, in phases of a few numbered steps each
(42_controller.md R162, R163, R171). -/

namespace Sys2Proof.Machine

section phases
variable (s : State)

/-- Read steps 1 and 2: the bus listens and the address is on the pins. -/
theorem finish_read_address (hq : s.seq = .rd1) (hc : s.ceN = true) (hw : s.weN = true)
    (hs : s.srclk = false) :
    finish s = finish { s with
      dir := .input, sr := s.cmdAddr, al := s.cmdAddr, ser := s.cmdAddr.getLsbD 0,
      rclk := true, srclk := false, seq := .rd3,
      trace := s.trace ++ (if s.dir = .output then [.dir .input] else []) ++ latchEvents s.cmdAddr } := by
  refine finish_through .rd1 hq nofun (readStep1_ok s hc hw) ?_
  exact finish_through .rd2 rfl nofun
    (readStep2_ok _ hs (violation_deselected _ hc hw) (.inl hc)) rfl

/-- Read steps 3 and 4: the chip is selected, with its output enabled for long enough. -/
theorem finish_read_select (hq : s.seq = .rd3) (hd : s.dir = .input) (hw : s.weN = true) :
    finish s = finish { s with
      ceN := false, oeN := false, seq := .rd5,
      trace := s.trace ++ [.pin .ceN false, .pin .oeN false] ++ [.wait s.params.tOeValid] } := by
  refine finish_through .rd3 hq nofun (readStep3_ok s hd hw) ?_
  exact finish_through .rd4 rfl nofun (readStep4_ok _ hd hw) rfl

/-- Read steps 5 and 6 with the chip driving. -/
theorem finish_read_sample (hq : s.seq = .rd5) (hd : s.dir = .input) (hw : s.weN = true)
    (hc : chipDrives s = true) :
    finish s = .next { s with
      rdata := memRead s (addressPins s), ceN := true, oeN := true, seq := .idle,
      trace := s.trace ++ sampleEvents (memRead s (addressPins s)) ++
        [.pin .ceN true, .pin .oeN true, .wait s.params.tSettle] } := by
  refine finish_through .rd5 hq nofun (readStep5_ok s hd hw hc) ?_
  exact finish_through .rd6 rfl nofun (readStep6_ok _ hd hw) (finish_idle _ rfl)

/-- Write steps 1 and 2: CORE drives and the chip does not. -/
theorem finish_write_bus (hq : s.seq = .wr1) (hc : s.ceN = true) (hw : s.weN = true) :
    finish s = finish { s with
      dir := .output, oeN := true, seq := .wr3,
      trace := s.trace ++ (if s.dir = .input then [.dir .output] else []) ++
        [.pin .oeN true, .wait s.params.tSettle] } := by
  refine finish_through .wr1 hq nofun (writeStep1_ok s hc hw) ?_
  exact finish_through .wr2 rfl nofun (writeStep2_ok _ hc hw) rfl

/-- Write steps 3 and 4: the address is on the pins and the chip is selected. -/
theorem finish_write_address (hq : s.seq = .wr3) (ho : s.oeN = true) (hw : s.weN = true)
    (hs : s.srclk = false) :
    finish s = finish { s with
      sr := s.cmdAddr, al := s.cmdAddr, ser := s.cmdAddr.getLsbD 0, rclk := true, srclk := false,
      ceN := false, seq := .wr5,
      trace := s.trace ++ latchEvents s.cmdAddr ++ [.wait s.params.tSettle] ++
        [.pin .ceN false, .wait s.params.tSettle] } := by
  refine finish_through .wr3 hq nofun (writeStep3_ok s hs (violation_oeHigh s ho) (.inr hw)) ?_
  exact finish_through .wr4 rfl nofun (writeStep4_ok _ ho hw) rfl

/-- Write steps 5 to 7: the pulse, with the byte on the lines. -/
theorem finish_write_pulse (hq : s.seq = .wr5) (ho : s.oeN = true) (hd : s.dir = .output) :
    finish s = finish { s with
      weN := false, dout := s.cmdData, seq := .wr8,
      trace := s.trace ++ [.pin .weN false, .wait s.params.tSettle] ++ driveEvents s.cmdData ++
        [.wait s.params.tWp] } := by
  refine finish_through .wr5 hq nofun (writeStep5_ok s ho) ?_
  refine finish_through .wr6 rfl nofun (writeStep6_ok _ hd ho) ?_
  exact finish_through .wr7 rfl nofun (writeStep7_ok _ ho) rfl

/-- Write steps 8 to 10: the commit, and the lines back at rest. -/
theorem finish_write_commit (hq : s.seq = .wr8) (hc : s.ceN = false) (ho : s.oeN = true)
    (hw : s.weN = false) (hd : s.dir = .output)
    (ht : s.params.tSettle + s.params.tWp ≤ pulseTime s.trace) :
    finish s = .next { s with
      mem := if s.params.chipPresent && s.params.chipCommits then
        (memWrite (addressPins s) s.dout s).mem else s.mem,
      weN := true, ceN := true, oeN := !s.params.oeReassert, seq := .idle,
      trace := s.trace ++ [.pin .weN true, .wait s.params.tSettle] ++
        [.pin .ceN true, .wait s.params.tSettle] ++
        if s.params.oeReassert then [.pin .oeN false] else [] } := by
  refine finish_through .wr8 hq nofun (writeStep8_ok s hw hc ho hd ht) ?_
  refine finish_through .wr9 rfl nofun (writeStep9_ok _ ho rfl) ?_
  exact finish_through .wr10 rfl nofun (writeStep10_ok _ rfl ho rfl) (finish_idle _ rfl)

end phases

/-- INIT from every idle state, whatever the lines held (42_controller.md R162). -/
theorem exec_init (a : Addr) (d : Byte) (s : State) (hs : s.seq = .idle) :
    exec (.init a d) s = .next { s with
      cmdAddr := a, cmdData := d, dir := .input, ceN := true, oeN := true, weN := true,
      srclk := false, ser := false, rclk := false, inited := true,
      trace := s.trace ++ initEvents } := by
  rw [execInit_eq_finish a d s hs]
  refine finish_through .ini rfl nofun rfl ((finish_idle _ rfl).trans ?_)
  simp [initStep, initActions, Action.apply, writePin, emit, initEvents, Seq.next, hs]

/-- READ up to its sample: the addressed cell is selected and output-enabled (42_controller.md R164 to
R167). -/
theorem exec_read_eq_sample (a : Addr) (d : Byte) (s : State) (hs : Ready s) :
    exec (.read a d) s = finish { s with
      cmdAddr := a, cmdData := d, dir := .input, sr := a, al := a, ser := a.getLsbD 0,
      rclk := true, srclk := false, ceN := false, oeN := false, seq := .rd5,
      trace := s.trace ++ (if s.dir = .output then [.dir .input] else []) ++ latchEvents a ++
        [.pin .ceN false, .pin .oeN false, .wait s.params.tOeValid] } := by
  obtain ⟨hidle, hinited, hce, hwe, hsrclk⟩ := hs
  rw [execRead_eq_finish a d s hidle hinited]
  refine Eq.trans (finish_read_address _ rfl hce hwe hsrclk) ?_
  refine Eq.trans (finish_read_select _ rfl rfl hwe) ?_
  simp

/-- READ with a chip there (42_controller.md R163 to R170; 20_memory.md R65). -/
theorem exec_read (a : Addr) (d : Byte) (s : State) (hs : Ready s)
    (hp : s.params.chipPresent = true) :
    exec (.read a d) s = .next { s with
      cmdAddr := a, cmdData := d, dir := .input, sr := a, al := a, ser := a.getLsbD 0,
      rclk := true, srclk := false, ceN := true, oeN := true, rdata := memRead s (cell a),
      trace := s.trace ++ readEvents s.params s.dir a (memRead s (cell a)) } := by
  rw [exec_read_eq_sample a d s hs]
  obtain ⟨hidle, -, -, hwe, -⟩ := hs
  refine Eq.trans (finish_read_sample _ rfl rfl hwe (by simp [chipDrives, hp, hwe])) ?_
  simp [readEvents, addressPins, cell, memRead, hidle]

/-- The pulse of a WRITE lasts as long as the chip needs, whatever came before it (42_controller.md R176 to
R178; 20_memory.md R77). -/
theorem pulseTime_pulseBody (p : Params) (v : Byte) (es : List Event) :
    pulseTime (es ++ .pin .weN false :: pulseBody p v) = p.tSettle + p.tWp := by
  simp [pulseTime, pulseBody, driveEvents, lsbFirst, pulseAfter]

/-- WRITE up to the end of its pulse (42_controller.md R172 to R178). -/
theorem exec_write_eq_pulse (a : Addr) (v : Byte) (s : State) (hs : Ready s) :
    exec (.write a v) s = finish { s with
      cmdAddr := a, cmdData := v, dir := .output, sr := a, al := a, ser := a.getLsbD 0,
      rclk := true, srclk := false, ceN := false, oeN := true, weN := false, dout := v, seq := .wr8,
      trace := s.trace ++ writeLead s.params s.dir a ++ .pin .weN false :: pulseBody s.params v } := by
  obtain ⟨hidle, hinited, hce, hwe, hsrclk⟩ := hs
  rw [execWrite_eq_finish a v s hidle hinited]
  refine Eq.trans (finish_write_bus _ rfl hce hwe) ?_
  refine Eq.trans (finish_write_address _ rfl rfl hwe hsrclk) ?_
  refine Eq.trans (finish_write_pulse _ rfl rfl rfl) ?_
  simp [writeLead, pulseBody]

/-- WRITE, with and without a chip that commits (42_controller.md R171 to R181; 20_memory.md R73 to R75). -/
theorem exec_write (a : Addr) (v : Byte) (s : State) (hs : Ready s) :
    exec (.write a v) s = .next { s with
      cmdAddr := a, cmdData := v, dir := .output, sr := a, al := a, ser := a.getLsbD 0,
      rclk := true, srclk := false, ceN := true, weN := true, oeN := !s.params.oeReassert,
      dout := v,
      mem := if s.params.chipPresent && s.params.chipCommits then (memWrite (cell a) v s).mem
        else s.mem,
      trace := s.trace ++ writeEvents s.params s.dir a v } := by
  rw [exec_write_eq_pulse a v s hs]
  obtain ⟨hidle, -, -, -, -⟩ := hs
  refine Eq.trans (finish_write_commit _ rfl rfl rfl rfl rfl
    (pulseTime_pulseBody s.params v _).ge) ?_
  simp [writeEvents, writeTail, addressPins, cell, hidle]

end Sys2Proof.Machine
end

section
/-! Programs on the idealised chip: what every command leaves in every cell (20_memory.md R78). -/

namespace Sys2Proof.Machine

/-- CORE ready, with a canonical MEM behind a chip that is there and commits (20_memory.md R70). -/
structure OnIdealChip (s : State) : Prop where
  ready : Ready s
  memWf : MemWf s
  present : s.params.chipPresent = true
  commits : s.params.chipCommits = true

/-- What a cell holds after a store to a cell (20_memory.md R72, R73). -/
theorem memRead_memWrite (a x : CellAddr) (v : Byte) (s : State) (h : MemWf s) :
    memRead (memWrite a v s) x = if a = x then v else memRead s x := by
  by_cases hx : a = x
  · rw [if_pos hx, ← hx, memRead_memWrite_same a v s h]
  · rw [if_neg hx, memRead_memWrite_other a x v s (Ne.symm hx)]

/-- The latest WRITE of a program is that of its rest, or else that of its first command. -/
theorem lastWritten_cons (x : CellAddr) (b : Byte) (i : Instr) (is : List Instr) :
    lastWritten x b (i :: is) = lastWritten x (lastWritten x b [i]) is := by
  cases i <;> rfl

/-- One command on the idealised chip completes, leaves CORE ready for the next, and leaves every cell as
its WRITE says or as it was. -/
theorem exec_onIdealChip (i : Instr) (s : State) (hi : i.isCommand = true) (hs : OnIdealChip s) :
    ∃ t, exec i s = .next t ∧ OnIdealChip t ∧ ∀ x, memRead t x = lastWritten x (memRead s x) [i] := by
  obtain ⟨hready, hmem, hp, hc⟩ := hs
  have ⟨hidle, hinited, _, hwe, _⟩ := hready
  cases i with
  | init a d =>
    exact ⟨_, exec_init a d s hidle, ⟨⟨hidle, rfl, rfl, rfl, rfl⟩, hmem, hp, hc⟩, fun _ => rfl⟩
  | read a d =>
    exact ⟨_, exec_read a d s hready hp,
      ⟨⟨hidle, hinited, rfl, hwe, rfl⟩, hmem, hp, hc⟩, fun _ => rfl⟩
  | write a v =>
    have hexec := exec_write a v s hready
    rw [hp, hc, Bool.and_self, if_pos rfl] at hexec
    exact ⟨_, hexec, ⟨⟨hidle, hinited, rfl, rfl, rfl⟩, memWrite_wf (cell a) v s hmem, hp, hc⟩,
      fun x => memRead_memWrite (cell a) x v s hmem⟩
  | latch a d | setdir a d | drive a d | sample a d => cases hi

/-- So it is for every program, command by command. -/
theorem execAll_onIdealChip (cs : List Instr) (s : State) (hcs : ∀ c ∈ cs, c.isCommand = true)
    (hs : OnIdealChip s) :
    ∃ t, execAll cs s = .next t ∧ OnIdealChip t ∧
      ∀ x, memRead t x = lastWritten x (memRead s x) cs := by
  induction cs generalizing s with
  | nil => exact ⟨s, rfl, hs, fun _ => rfl⟩
  | cons c cs ih =>
    obtain ⟨u, hu, huchip, humem⟩ := exec_onIdealChip c s (hcs c (List.mem_cons_self ..)) hs
    obtain ⟨t, ht, htchip, htmem⟩ := ih u (fun b hb => hcs b (List.mem_cons_of_mem c hb)) huchip
    refine ⟨t, by rw [execAll, hu, andThen_next, ht], htchip, fun x => ?_⟩
    rw [htmem, humem, ← lastWritten_cons]

/-- A READ on the idealised chip returns what the cell of its operand holds. -/
theorem exec_read_rdata (b : Addr) (d : Byte) (s : State) (hs : OnIdealChip s) :
    ∃ u, exec (.read b d) s = .next u ∧ u.rdata = memRead s (cell b) :=
  ⟨_, exec_read b d s hs.ready hs.present, rfl⟩

/-- The cell of an operand is its value without bit 15 (20_memory.md R65). -/
theorem cell_toNat (a : Addr) : (cell a).toNat = a.toNat % 32768 := by
  rw [cell, BitVec.extractLsb'_toNat, Nat.shiftRight_zero]

end Sys2Proof.Machine
end

section
/-! The obligations of 20_memory.md. -/

namespace Sys2Proof.Proofs

open Sys2Proof.Machine

/-- Settles O57: every action of every step stores through `memWrite`, which keeps the canonical form
(`Kept.memWf`). -/
theorem memoryStaysCanonical : Obligations.MemoryStaysCanonical := by
  unfold Obligations.MemoryStaysCanonical
  intro s t hmem h
  exact (step_kept s t h).memWf hmem

/-- Settles O59, by induction on the program: each command leaves CORE ready on the same chip. -/
theorem programsSeeTheLatestWrite : Obligations.ProgramsSeeTheLatestWrite := by
  unfold Obligations.ProgramsSeeTheLatestWrite
  intro cs s hready hmem hp hc hcs
  obtain ⟨t, ht, hchip, hcells⟩ := execAll_onIdealChip cs s hcs ⟨hready, hmem, hp, hc⟩
  refine ⟨t, ht, hcells, fun b d => ?_⟩
  obtain ⟨u, hu, hrdata⟩ := exec_read_rdata b d t hchip
  exact ⟨u, hu, by rw [hrdata, hcells]⟩

/-- Settles O42: the WRITE leaves the chip to the READ with its byte in the one cell. -/
theorem writeThenReadReturnsTheByte : Obligations.WriteThenReadReturnsTheByte := by
  unfold Obligations.WriteThenReadReturnsTheByte
  intro a b v d s hready hmem hp hc
  obtain ⟨t, ht, hchip, hcells⟩ := exec_onIdealChip (.write a v) s rfl ⟨hready, hmem, hp, hc⟩
  obtain ⟨u, hu, hrdata⟩ := exec_read_rdata b d t hchip
  refine ⟨t, u, ht, hu, ?_⟩
  rw [hrdata, hcells]
  simp only [lastWritten, eq_comm]

/-- Settles O17: READ takes from its operand the cell and nothing else that it answers. -/
theorem addressBitFifteenIsIgnored : Obligations.AddressBitFifteenIsIgnored := by
  unfold Obligations.AddressBitFifteenIsIgnored
  refine ⟨cell_toNat, fun a b d s t u hab hready hp ht hu => ?_⟩
  have hcell : cell a = cell b := by
    apply BitVec.eq_of_toNat_eq
    rw [cell_toNat, cell_toNat, hab]
  rw [exec_read a d s hready hp] at ht
  rw [exec_read b d s hready hp] at hu
  cases ht
  cases hu
  exact ⟨congrArg (memRead s) hcell, hcell⟩

/-- Settles O20: the four rows of the table, by who drives. -/
theorem busResolution : Obligations.BusResolution := by
  unfold Obligations.BusResolution
  intro s
  have hinput := (coreDrives_eq_false s).1
  refine ⟨by simp [chipDrives, and_assoc], by simp [coreDrives],
    fun hcore hchip => ⟨by simp [bus, hcore, hchip], violation_of_contention s hcore hchip⟩,
    fun hcore hchip => by simp [bus, hcore, hchip], fun hcore hchip => bus_chip s (hinput hcore) hchip,
    fun hcore hchip => ?_, fun v i hb => by rw [level, busByte_driven s v hb],
    fun i hb => by rw [level, busByte_floating s hb]⟩
  have hfloat := bus_nobody s (hinput hcore) hchip
  exact ⟨hfloat, busByte_floating s hfloat⟩

/-- Settles O22: each of the four is a case of `unmodelled`. -/
theorem unmodelledWaveformsAreRefused : Obligations.UnmodelledWaveformsAreRefused := by
  unfold Obligations.UnmodelledWaveformsAreRefused
  intro s hv hw
  refine ⟨fun hc => act_of_unmodelled _ s hv ?_, fun hc => act_of_unmodelled _ s hv ?_,
    fun hc hr hal => act_of_unmodelled _ s hv ?_, fun hc ht => act_of_unmodelled _ s hv ?_⟩
  · simp [unmodelled, hw, hc]
  · simp [unmodelled, hw, hc]
  · simp [unmodelled, hw, hc, hr, hal]
  · simp [unmodelled, hw, hc, ht]

/-- Settles O23: the rise is the commit, and the commit evaluates the bus once. -/
theorem commitStoresTheByteOnTheBus : Obligations.CommitStoresTheByteOnTheBus := by
  unfold Obligations.CommitStoresTheByteOnTheBus
  intro s hw hc ho ht
  have hchip := chipDrives_oeHigh s ho
  rw [act_weN_rise s hw hc ho ht]
  refine ⟨fun hp hcommits hd => ?_, fun hp hcommits hd => ?_, fun h => ?_⟩
  · rw [commit_stores s hp hcommits, busByte_driven s _ (bus_core s hd hchip)]
    rfl
  · rw [commit_stores s hp hcommits, busByte_floating s (bus_nobody s hd hchip)]
    rfl
  · rw [commit_nothing s (by rcases h with h | h <;> simp [h])]
    rfl

/-- Settles O24: the rules of `Memory.write`, at the cell numbers. -/
theorem cellsReadBackWhatWasStored : Obligations.CellsReadBackWhatWasStored := by
  unfold Obligations.CellsReadBackWhatWasStored
  intro s a b v hmem
  exact ⟨memRead_memWrite_same a v s hmem, memRead_memWrite_other a b v s, memWrite_wf a v s hmem⟩

/-- Settles O27: all of LATCH runs up to its last edge, which would move the address. -/
theorem latchInsideAWritePulseIsRefused : Obligations.LatchInsideAWritePulseIsRefused := by
  unfold Obligations.LatchInsideAWritePulseIsRefused
  intro a d s hs hw hc ho ha
  have hv := violation_oeHigh s ho
  rw [exec, execLatch, latch_eq_lastEdge a s hs hv]
  exact act_of_unmodelled _ _ hv (by simp [unmodelled, hw, hc, ha.symm])

end Sys2Proof.Proofs
end

section
/-! The decoder by the fields of the word, and the rows of the opcode table (30_encoding.md R91 to
R104). -/

namespace Sys2Proof

/-- A word is the operation that has its three fields, and no other. -/
theorem decode_eq_ok (w : Command) (i : Instr) :
    decode w = .ok i ↔ opField w = i.op ∧ addrField w = i.addr ∧ dataField w = i.data := by
  constructor
  · intro h
    unfold decode at h
    split at h
    case h_8 => cases h
    all_goals
      rename_i hop
      cases h
      exact ⟨BitVec.eq_of_toNat_eq hop, rfl, rfl⟩
  · rintro ⟨hop, haddr, hdata⟩
    rw [decode, hop, haddr, hdata]
    cases i <;> rfl

/-- The word of an operation carries its three fields. -/
theorem wordFields (i : Instr) : Laws.WordFields.Statement i :=
  ⟨opField_word _ _ _, addrField_word _ _ _, dataField_word _ _ _⟩

theorem decode_encode (i : Instr) : decode (encode i) = .ok i :=
  (decode_eq_ok _ i).2 (wordFields i)

theorem encode_of_decode (w : Command) (i : Instr) (h : decode w = .ok i) : encode i = w := by
  obtain ⟨hop, haddr, hdata⟩ := (decode_eq_ok w i).1 h
  rw [encode, ← hop, ← haddr, ← hdata, word_of_fields]

/-- The reserved code (30_encoding.md R97). -/
theorem decode_reserved (w : Command) (h : opField w = 0b011#3) : decode w = .error .reservedOp := by
  rw [decode, h]
  rfl

/-- Every code but the reserved one is an operation's (30_encoding.md R93). -/
theorem exists_decode (w : Command) (h : opField w ≠ 0b011#3) : ∃ i, decode w = .ok i := by
  unfold decode
  split
  case h_8 =>
    have hlt : (opField w).toNat < 8 := (opField w).isLt
    simp only [imp_false] at *
    have hthree : (opField w).toNat = 3 := by omega
    exact absurd (BitVec.eq_of_toNat_eq hthree) h
  all_goals exact ⟨_, rfl⟩

theorem Instr.op_ne_reserved (i : Instr) : i.op ≠ 0b011#3 := by cases i <;> simp [Instr.op]

theorem opField_topBit (w : Command) : (opField w).getLsbD 2 = w.getLsbD 26 := by
  rw [opField, BitVec.getLsbD_extractLsb']
  rfl

/-- The top bit of `op` tells the internal operations from the host commands (30_encoding.md R93, R98). -/
theorem internal_eq_bit26 (w : Command) (i : Instr) (h : decode w = .ok i) :
    i.internal = w.getLsbD 26 := by
  have hop : i.internal = i.op.getLsbD 2 := by cases i <;> simp [Instr.internal, Instr.op]
  rw [hop, ← ((decode_eq_ok w i).1 h).1, opField_topBit]

/-- A word with bit 26 set is an operation: the reserved code has it clear. -/
theorem opField_ne_reserved (w : Command) (h : w.getLsbD 26 = true) : opField w ≠ 0b011#3 := by
  intro hop
  rw [← opField_topBit, hop] at h
  cases h

/-- The command port takes the host command that has the word's three fields. -/
theorem decodeHost_command (w : Command) (i : Instr) (hi : i.internal = false)
    (h : opField w = i.op ∧ addrField w = i.addr ∧ dataField w = i.data) : decodeHost w = .ok i := by
  rw [decodeHost, (decode_eq_ok w i).2 h]
  simp [hi]

theorem decodeHost_reserved (w : Command) (h : opField w = 0b011#3) :
    decodeHost w = .error .reservedOp := by
  rw [decodeHost, decode_reserved w h]

theorem decodeHost_internal (w : Command) (h : w.getLsbD 26 = true) :
    decodeHost w = .error .internalOp := by
  obtain ⟨i, hi⟩ := exists_decode w (opField_ne_reserved w h)
  have hinternal : i.internal = true := (internal_eq_bit26 w i hi).trans h
  simp [decodeHost, hi, hinternal]

theorem decodeCall_reserved (w : Command) (h : opField w = 0b011#3) :
    decodeCall w = .error .reservedOp := by
  rw [decodeCall, decode_reserved w h]

theorem decodeCall_command (w : Command) (h : w.getLsbD 26 = false) (hop : opField w ≠ 0b011#3) :
    decodeCall w = .error .notInternal := by
  obtain ⟨i, hi⟩ := exists_decode w hop
  have hinternal : i.internal = false := (internal_eq_bit26 w i hi).trans h
  simp [decodeCall, hi, hinternal]

/-- The mask of every row keeps the `op` field and clears the rest (30_encoding.md R103). -/
theorem and_rowMask (w : Command) : w &&& rowMask = opField w ++ (0#24 : BitVec 24) := by
  have hmask : rowMask = (BitVec.allOnes 3 ++ (0#24 : BitVec 24) : Command) := by decide
  apply BitVec.eq_of_getLsbD_eq
  intro j hj
  rw [BitVec.getLsbD_and, hmask, BitVec.getLsbD_append, BitVec.getLsbD_append, opField,
    BitVec.getLsbD_extractLsb']
  split
  · simp
  · rw [show 24 + (j - 24) = j by omega, BitVec.getLsbD_allOnes, Bool.and_comm]

/-- A row of the table by its match and mask is the row by its code (30_encoding.md R103). -/
theorem and_rowMask_eq_iff (w : Command) (o : BitVec 3) :
    w &&& rowMask = o ++ (0#24 : BitVec 24) ↔ opField w = o := by
  rw [and_rowMask]
  exact BitVec.append_left_inj _

end Sys2Proof
end

section
/-! The moves the port refuses (30_encoding.md R97, R98). -/

namespace Sys2Proof.Machine

/-- At `IDLE` a word that is no operation at the place it was offered is refused (30_encoding.md R97). -/
theorem step_of_refused_move (s : State) (m : Move) (rest : List Move) (e : DecodeError)
    (hf : s.faultMark = none) (hs : s.seq = .idle) (hp : s.port = m :: rest)
    (he : m.decode = .error e) : step s = .refused (refusalOf e) := by
  simp [step, hf, hs, hp, he]

end Sys2Proof.Machine
end

section
/-! READ takes nothing from CMD_DATA (30_encoding.md R96; 92_eei_decisions.md D20). -/

namespace Sys2Proof.Machine

/-- The state with another byte in CMD_DATA. -/
def State.loadData (d : Byte) (s : State) : State := { s with cmdData := d }

/-- Where `f` answers a next state, it answers the same from any other byte in CMD_DATA, with that byte
still there. -/
def DataBlind (f : State → Result) : Prop :=
  ∀ (d : Byte) (s t : State), f s = .next t → f (s.loadData d) = .next (t.loadData d)

theorem busByte_loadData (d : Byte) (s : State) :
    busByte (s.loadData d) = ((busByte s).1, (busByte s).2.loadData d) := by
  have hbus : bus (s.loadData d) = bus s := rfl
  simp only [busByte, hbus]
  split <;> rfl

theorem commit_loadData (d : Byte) (s : State) : commit (s.loadData d) = (commit s).loadData d := by
  have hparams : (s.loadData d).params = s.params := rfl
  unfold commit
  rw [hparams, busByte_loadData]
  split <;> rfl

theorem apply_loadData (a : Action) (d : Byte) (s : State) :
    a.apply (s.loadData d) = (a.apply s).loadData d := by
  cases a with
  | pin p v =>
    cases p with
    | weN =>
      have hrise : (!(s.loadData d).weN && v && !(s.loadData d).ceN) = (!s.weN && v && !s.ceN) := rfl
      simp only [Action.apply, writePin, hrise, commit_loadData]
      split <;> rfl
    | _ => rfl
  | sample i =>
    simp only [Action.apply, level, busByte_loadData]
    rfl
  | dirset e => rfl
  | wait n => rfl

theorem DataBlind.andThen {f g : State → Result} (hf : DataBlind f) (hg : DataBlind g) :
    DataBlind fun s => andThen (f s) g := by
  intro d s t h
  obtain ⟨u, hu, hut⟩ := (andThen_eq_next _ _ _).1 h
  exact (andThen_eq_next _ _ _).2 ⟨u.loadData d, hf d s u hu, hg d u t hut⟩

theorem dataBlind_next : DataBlind .next := by
  rintro d s _ ⟨⟩
  rfl

theorem dataBlind_goto (q : Seq) : DataBlind (goto q) := by
  rintro d s _ ⟨⟩
  rfl

/-- The verdicts on the lines do not look at CMD_DATA either. -/
theorem dataBlind_act (a : Action) : DataBlind (act a) := by
  intro d s t h
  obtain ⟨hv, hu, hw, rfl⟩ := (act_eq_next a s t).1 h
  have hunmodelled : unmodelled a (s.loadData d) = unmodelled a s := rfl
  exact (act_eq_next _ _ _).2 ⟨hv, hunmodelled.trans hu, by rw [apply_loadData]; exact hw,
    (apply_loadData a d s).symm⟩

theorem dataBlind_run (as : List Action) : DataBlind (run as) := by
  induction as with
  | nil => exact dataBlind_next
  | cons a as ih => exact (dataBlind_act a).andThen ih

theorem dataBlind_setDir (e : Dir) : DataBlind (setDir e) := by
  intro d s t h
  by_cases he : s.dir = e
  · rw [setDir, if_pos he] at h
    rw [setDir, if_pos (by exact he)]
    exact dataBlind_next d s t h
  · rw [setDir, if_neg he] at h
    rw [setDir, if_neg (by exact he)]
    exact dataBlind_act _ d s t h

theorem dataBlind_sample : DataBlind sample := by
  intro d s t h
  obtain ⟨hdir, hrun⟩ := (sample_eq_next s t).1 h
  exact (sample_eq_next _ _).2 ⟨hdir, dataBlind_run _ d s t hrun⟩

/-- The positions of READ, and the return. -/
def Seq.reading : Seq → Bool
  | .idle | .rd1 | .rd2 | .rd3 | .rd4 | .rd5 | .rd6 => true
  | _ => false

theorem Seq.reading_next (q : Seq) (h : q.reading = true) : q.next.reading = true := by
  cases q with
  | idle | rd1 | rd2 | rd3 | rd4 | rd5 | rd6 => rfl
  | _ => cases h

/-- The six steps of READ (42_controller.md R164 to R169). -/
theorem dataBlind_numberedStep (q : Seq) (hq : q.reading = true) : DataBlind (numberedStep q) := by
  cases q with
  | idle => exact dataBlind_next
  | rd1 =>
    intro d s t h
    rw [numberedStep, readStep1_eq_setDir] at h ⊢
    exact dataBlind_setDir .input d s t h
  | rd2 => exact fun d s => dataBlind_run (latchActions s.cmdAddr) d s
  | rd3 => exact dataBlind_run _
  | rd4 => exact fun d s => dataBlind_run [.wait s.params.tOeValid] d s
  | rd5 => exact dataBlind_sample
  | rd6 => exact fun d s => dataBlind_run [.pin .ceN true, .pin .oeN true, .wait s.params.tSettle] d s
  | _ => cases hq

/-- From a position of READ to its return. -/
theorem finishWithin_loadData (n : Nat) (d : Byte) (s t : State) (hq : s.seq.reading = true)
    (h : finishWithin n s = .next t) : finishWithin n (s.loadData d) = .next (t.loadData d) := by
  induction n generalizing s with
  | zero => exact dataBlind_next d s t h
  | succ n ih =>
    by_cases hidle : s.seq = .idle
    · rw [finishWithin_idle _ s hidle] at h
      rw [finishWithin_idle _ (s.loadData d) hidle]
      exact dataBlind_next d s t h
    · rw [finishWithin_succ n s hidle] at h
      rw [finishWithin_succ n (s.loadData d) hidle]
      obtain ⟨u, hu, hut⟩ := (andThen_eq_next _ _ _).1 h
      obtain ⟨v, hv, rfl⟩ := (seqStep_eq_next s u).1 hu
      exact (andThen_eq_next _ _ _).2 ⟨_,
        (seqStep_eq_next _ _).2 ⟨v.loadData d, dataBlind_numberedStep _ hq d s v hv, rfl⟩,
        ih _ (s.seq.reading_next hq) hut⟩

/-- The `data` field of a READ is loaded into CMD_DATA and changes nothing else. -/
theorem exec_read_loadData (a : Addr) (d d' : Byte) (s t : State) (h : exec (.read a d) s = .next t) :
    exec (.read a d') s = .next (t.loadData d') := by
  obtain ⟨u, hu, hut⟩ := (andThen_eq_next _ _ _).1 h
  obtain ⟨hinited, rfl⟩ := (needInited_eq_next _ _).1 hu
  obtain ⟨v, hv, hvt⟩ := (andThen_eq_next _ _ _).1 hut
  obtain ⟨hidle, rfl⟩ := (accept_eq_next _ _ _ _ _).1 hv
  rw [execRead_eq_finish a d' u hidle hinited]
  exact finishWithin_loadData 10 d' _ t rfl hvt

end Sys2Proof.Machine
end

section
/-! The obligations of 30_encoding.md. -/

namespace Sys2Proof.Proofs

open Sys2Proof.Machine

/-- Settles O1: an operation's word carries its code and both of its fields, which is all `decode` looks
at. -/
theorem decodeOfEncodeGivesTheInstruction : Obligations.DecodeOfEncodeGivesTheInstruction := by
  unfold Obligations.DecodeOfEncodeGivesTheInstruction
  exact decode_encode

/-- Settles O2: a word is put together from the three fields of the operation it decodes to. -/
theorem encodeOfDecodeGivesTheWord : Obligations.EncodeOfDecodeGivesTheWord := by
  unfold Obligations.EncodeOfDecodeGivesTheWord
  exact encode_of_decode

/-- Settles O3: a row is picked by its code, and every operation's code is that of a word. -/
theorem rowMasksPickTheOperation : Obligations.RowMasksPickTheOperation := by
  unfold Obligations.RowMasksPickTheOperation
  intro w i
  refine (and_rowMask_eq_iff w i.op).trans ⟨fun hop => ?_, fun ⟨j, hj, hop⟩ => ?_⟩
  · obtain ⟨j, hj⟩ := exists_decode w (hop ▸ i.op_ne_reserved)
    exact ⟨j, hj, ((decode_eq_ok w j).1 hj).1.symm.trans hop⟩
  · exact ((decode_eq_ok w j).1 hj).1.trans hop

/-- Settles O4: the command port takes the three host commands by their fields. -/
theorem hostDecoderFollowsTheOpField : Obligations.HostDecoderFollowsTheOpField := by
  unfold Obligations.HostDecoderFollowsTheOpField
  intro w
  exact ⟨fun h => decodeHost_command w (.init _ _) rfl ⟨h, rfl, rfl⟩,
    fun h => decodeHost_command w (.read _ _) rfl ⟨h, rfl, rfl⟩,
    fun h => decodeHost_command w (.write _ _) rfl ⟨h, rfl, rfl⟩,
    decodeHost_reserved w, decodeHost_internal w,
    and_rowMask_eq_iff w 0b000#3, and_rowMask_eq_iff w 0b001#3, and_rowMask_eq_iff w 0b010#3⟩

/-- Settles O6: INIT and READ load an ignored field and never look at it; the sub-operations are not
handed it. -/
theorem ignoredFieldsChangeNothing : Obligations.IgnoredFieldsChangeNothing := by
  unfold Obligations.IgnoredFieldsChangeNothing
  refine ⟨fun a a' d d' s t h => ?_, fun a d d' s t h => exec_read_loadData a d d' s t h,
    fun _ _ _ _ => rfl, fun a a' d d' s h => ?_, fun _ _ _ _ => rfl, fun _ _ _ _ _ => rfl⟩
  · obtain ⟨-, hidle, -, -⟩ := exec_command_eq_next _ s t rfl h
    rw [exec_init a d s hidle] at h
    cases h
    exact exec_init a' d' s hidle
  · have hdir : dirOperand d = dirOperand d' := by rw [dirOperand, dirOperand, h]
    rw [exec, exec, execSetdir, execSetdir, hdir]

/-- Settles O9: the decoder each issuer's words go through answers the error of that name. -/
theorem portRefusesByName : Obligations.PortRefusesByName := by
  unfold Obligations.PortRefusesByName
  intro s m rest hf hs hp
  have hstep (e : DecodeError) (he : m.decode = .error e) : step s = .refused (refusalOf e) :=
    step_of_refused_move s m rest e hf hs hp he
  refine ⟨fun hop => hstep .reservedOp ?_, fun hi hbit => hstep .internalOp ?_,
    fun hi hbit hop => hstep .notInternal ?_⟩
  · cases hi : m.issuer with
    | host => simp only [Move.decode, hi, decodeHost_reserved _ hop]
    | sequencer => simp only [Move.decode, hi, decodeCall_reserved _ hop]
  · simp only [Move.decode, hi, decodeHost_internal _ hbit]
  · simp only [Move.decode, hi, decodeCall_command _ hbit hop]

/-- Settles O5: each word evaluated. -/
theorem exampleWordsDecode : Obligations.ExampleWordsDecode := by
  unfold Obligations.ExampleWordsDecode
  decide

end Sys2Proof.Proofs
end

section
/-! LATCH action by action, and LATCH entered with `SRCLK` high (40_address_latch.md R121, R125). -/

namespace Sys2Proof.Machine

/-- The low byte of an address (40_address_latch.md R120). -/
theorem lowByte_toNat (a : Addr) : (lowByte a).toNat = a.toNat % 256 := by
  rw [lowByte, BitVec.extractLsb'_toNat, Nat.shiftRight_zero]

/-- The high byte of an address; 16 bits leave nothing above it (40_address_latch.md R120). -/
theorem highByte_toNat (a : Addr) : (highByte a).toNat = a.toNat / 256 := by
  have hlt : a.toNat < 65536 := a.isLt
  rw [highByte, BitVec.extractLsb'_toNat, Nat.shiftRight_eq_div_pow]
  omega

/-- Shifting a byte out writes `SER` and `SRCLK` only. -/
theorem eq_pin_of_mem_shiftOut8 (b : Byte) (x : Action) (h : x ∈ shiftOut8 b) :
    ∃ v, x = .pin .ser v ∨ x = .pin .srclk v := by
  obtain ⟨i, -, hx⟩ := List.mem_flatMap.1 h
  simp only [shiftPulse, List.mem_cons, List.not_mem_nil, or_false] at hx
  obtain rfl | rfl | rfl := hx
  · exact ⟨_, .inl rfl⟩
  · exact ⟨_, .inr rfl⟩
  · exact ⟨_, .inr rfl⟩

/-- The 49 actions of a LATCH before its last edge. -/
def latchLeadActions (a : Addr) : List Action :=
  .pin .rclk false :: (shiftOut8 (highByte a) ++ shiftOut8 (lowByte a))

theorem latchActions_eq_lead (a : Addr) :
    latchActions a = latchLeadActions a ++ [.pin .rclk true] := by
  simp [latchActions, latchLeadActions]

theorem latchLeadActions_length (a : Addr) : (latchLeadActions a).length = 49 := rfl

/-- Before its last edge LATCH writes the three shift-register pins, and `RCLK` low only. -/
theorem eq_pin_of_mem_latchLeadActions (a : Addr) (x : Action) (h : x ∈ latchLeadActions a) :
    x = .pin .rclk false ∨ ∃ v, x = .pin .ser v ∨ x = .pin .srclk v := by
  rw [latchLeadActions, List.mem_cons, List.mem_append] at h
  obtain h | h | h := h
  · exact .inl h
  · exact .inr (eq_pin_of_mem_shiftOut8 _ x h)
  · exact .inr (eq_pin_of_mem_shiftOut8 _ x h)

/-- Before its last edge LATCH leaves the output stage alone (40_address_latch.md R123). -/
theorem run_take_latchActions_al (a : Addr) (k : Nat) (s t : State) (hk : k < 50)
    (h : run ((latchActions a).take k) s = .next t) : t.al = s.al := by
  have hlead : k ≤ (latchLeadActions a).length := by
    rw [latchLeadActions_length]
    omega
  rw [latchActions_eq_lead, List.take_append_of_le_length hlead] at h
  refine run_keeps (·.al = s.al) _ (fun x hx u v huv hu => ?_) s t h rfl
  obtain ⟨-, -, -, rfl⟩ := (act_eq_next x u v).1 huv
  have hne : x ≠ .pin .rclk true := by
    obtain rfl | ⟨v, rfl | rfl⟩ := eq_pin_of_mem_latchLeadActions a x (List.mem_of_mem_take hx)
    all_goals simp
  rw [apply_al, if_neg fun hrise => hne hrise.1]
  exact hu

/-- A pulse that finds `SRCLK` high already has no rise, so its bit is not taken (10_state.md R27). -/
theorem run_shiftPulse_srclkHigh (b : Level) (s : State) (hv : violation s = none)
    (hc : s.srclk = true) :
    run (shiftPulse b) s = .next { s with
      ser := b, srclk := false, trace := s.trace ++ pulseEvents b } := by
  rw [shiftPulse, run_cons, act_ok _ s hv rfl (by exact hv), andThen_next, run_cons,
    act_ok _ _ (by exact hv) rfl (by exact hv), andThen_next, run_singleton,
    act_ok _ _ (by exact hv) rfl (by exact hv)]
  simp [Action.apply, writePin, emit, hc, pulseEvents]

/-- The shift stage after the bits of a byte but its highest, most significant bit first. -/
def shiftInLowSeven (sr : Addr) (b : Byte) : Addr :=
  msbFirst.tail.foldl (fun sr (i : Fin 8) => shiftIn sr (b.getLsbD i.val)) sr

/-- `SHIFTOUT8(b)` entered with `SRCLK` high loses the highest bit (40_address_latch.md R125). -/
theorem run_shiftOut8_srclkHigh (b : Byte) (s : State) (hv : violation s = none)
    (hc : s.srclk = true) :
    run (shiftOut8 b) s = .next { s with
      ser := b.getLsbD 0, sr := shiftInLowSeven s.sr b, srclk := false,
      trace := s.trace ++ msbFirst.flatMap fun (i : Fin 8) => pulseEvents (b.getLsbD i.val) } := by
  have hbits : msbFirst = 7 :: msbFirst.tail := rfl
  rw [shiftOut8, hbits, List.flatMap_cons, run_append, run_shiftPulse_srclkHigh _ s hv hc,
    andThen_next, run_shiftBits b _ _ (by exact hv) rfl]
  simp [shiftInLowSeven, msbFirst]

/-- Fifteen shifts leave the lowest old bit on top. -/
theorem shiftInByte_shiftInLowSeven (sr a : Addr) :
    shiftInByte (shiftInLowSeven sr (highByte a)) (lowByte a) =
      BitVec.ofBool (sr.getLsbD 0) ++ a.extractLsb' 0 15 := by
  apply BitVec.eq_of_getLsbD_eq
  intro i hi
  rw [BitVec.getLsbD_append]
  simp only [shiftInByte, shiftInLowSeven, msbFirst, List.tail_cons, List.foldl_cons,
    List.foldl_nil, getLsbD_shiftIn]
  rcases i with _ | _ | _ | _ | _ | _ | _ | _ | _ | _ | _ | _ | _ | _ | _ | _ | i
  all_goals simp [highByte, lowByte]

/-- LATCH entered with `SRCLK` high, outside a write pulse (40_address_latch.md R125). -/
theorem latch_srclkHigh (a : Addr) (s : State) (hs : s.srclk = true) (hv : violation s = none)
    (hp : NoPulse s) :
    latch a s = .next { s with
      sr := BitVec.ofBool (s.sr.getLsbD 0) ++ a.extractLsb' 0 15,
      al := BitVec.ofBool (s.sr.getLsbD 0) ++ a.extractLsb' 0 15,
      ser := a.getLsbD 0, rclk := true, srclk := false,
      trace := s.trace ++ latchEvents a } := by
  have hlow : unmodelled (.pin .rclk false) s = false := by simp [unmodelled]
  have hser : (lowByte a).getLsbD 0 = a.getLsbD 0 := by simp [lowByte]
  rw [latch, latchActions, run_cons, act_ok _ s hv hlow hv, andThen_next,
    run_append, run_shiftOut8_srclkHigh _ _ (by exact hv) (by exact hs), andThen_next,
    run_append, run_shiftOut8 _ _ (by exact hv) rfl, andThen_next, run_singleton,
    act_ok _ _ (by exact hv) ?_ (by exact hv)]
  · simp only [shiftInByte_shiftInLowSeven, Action.apply, writePin, emit, hser, latchEvents_eq_lead,
      latchLead]
    simp
  · rcases hp with h | h <;> simp [unmodelled, Action.apply, writePin, h]

/-- The address pins do not carry the top bit of the output stage (10_state.md R22). -/
theorem addressPins_of_al (s : State) (b : Level) (x : CellAddr) (h : s.al = BitVec.ofBool b ++ x) :
    addressPins s = x := by
  rw [addressPins, h]
  exact BitVec.extractLsb'_append_eq_right

end Sys2Proof.Machine
end

section
/-! Frames of the sub-operations (40_address_latch.md R121; 41_data_bus.md R141, R145, R148): each is a
list of actions, and what every action of a list leaves alone the list leaves alone. -/

namespace Sys2Proof.Machine

/-- `s` with what LATCH may write taken from `t`. -/
def latchWrites (t s : State) : State :=
  { s with sr := t.sr, al := t.al, ser := t.ser, rclk := t.rclk, srclk := t.srclk, trace := t.trace }

/-- `s` with what DRIVE may write taken from `t`. -/
def driveWrites (t s : State) : State := { s with dout := t.dout, trace := t.trace }

/-- `s` with what SAMPLE may write taken from `t`. -/
def sampleWrites (t s : State) : State :=
  { s with rdata := t.rdata, draws := t.draws, trace := t.trace }

/-- A frame of every action of a list is one of the list: `writes t s` is `s` with some fields taken from
`t`. -/
theorem run_frame (writes : State → State → State) (hself : ∀ s, s = writes s s)
    (htwice : ∀ s t u, writes u (writes t s) = writes u s) (as : List Action)
    (has : ∀ a ∈ as, ∀ s, a.apply s = writes (a.apply s) s) (s t : State)
    (h : run as s = .next t) : t = writes t s := by
  refine run_keeps (fun u => u = writes u s) as (fun a ha u v huv hu => ?_) s t h (hself s)
  obtain ⟨-, -, -, rfl⟩ := (act_eq_next a u v).1 huv
  calc a.apply u = writes (a.apply u) u := has a ha u
    _ = writes (a.apply u) (writes u s) := congrArg (writes (a.apply u)) hu
    _ = writes (a.apply u) s := htwice s u (a.apply u)

theorem latch_frame (a : Addr) (s t : State) (h : latch a s = .next t) : t = latchWrites t s := by
  refine run_frame latchWrites (fun _ => rfl) (fun _ _ _ => rfl) _ (fun x hx u => ?_) s t h
  rw [latchActions_eq_lead, List.mem_append, List.mem_singleton] at hx
  obtain hx | rfl := hx
  · obtain rfl | ⟨v, rfl | rfl⟩ := eq_pin_of_mem_latchLeadActions a x hx
    all_goals rfl
  · rfl

theorem drive_frame (v : Byte) (s t : State) (h : drive v s = .next t) : t = driveWrites t s := by
  refine run_frame driveWrites (fun _ => rfl) (fun _ _ _ => rfl) _ (fun x hx u => ?_) s t
    ((drive_eq_next v s t).1 h).2
  obtain ⟨i, -, rfl⟩ := List.mem_map.1 hx
  rfl

theorem sample_frame (s t : State) (h : sample s = .next t) : t = sampleWrites t s := by
  refine run_frame sampleWrites (fun _ => rfl) (fun _ _ _ => rfl) _ (fun x hx u => ?_) s t
    ((sample_eq_next s t).1 h).2
  obtain ⟨i, -, rfl⟩ := List.mem_map.1 hx
  rw [apply_sample]
  rfl

end Sys2Proof.Machine
end

section
/-! The obligations of 40_address_latch.md. -/

namespace Sys2Proof.Proofs

open Sys2Proof.Machine

/-- Settles O16: the remainder and the quotient of the address by 256. -/
theorem addressDecomposes : Obligations.AddressDecomposes := by
  unfold Obligations.AddressDecomposes
  intro a
  have hlow := lowByte_toNat a
  have hhigh := highByte_toNat a
  exact ⟨hlow, by omega, by omega, hhigh, rfl, rfl, by omega, by omega⟩

/-- Settles O25: the address reaches the output stage at the last edge and not before. -/
theorem latchPutsTheAddressOnThePins : Obligations.LatchPutsTheAddressOnThePins := by
  unfold Obligations.LatchPutsTheAddressOnThePins
  intro a d s hs hv hp
  exact ⟨latch_ok a s hs hv hp, rfl, fun k u => run_take_latchActions_al a k s u⟩

/-- Settles O26: the bit that is lost is bit 15, which no address pin carries. -/
theorem latchFromHighClockLosesTheTopBit : Obligations.LatchFromHighClockLosesTheTopBit := by
  unfold Obligations.LatchFromHighClockLosesTheTopBit
  intro a d s hs hv hp
  exact ⟨_, latch_srclkHigh a s hs hv hp, rfl, rfl, addressPins_of_al _ _ _ rfl⟩

/-- Settles O43: no action of the four touches another field, so MEM and the erased byte are the same. -/
theorem frameOfSubOperations : Obligations.FrameOfSubOperations := by
  unfold Obligations.FrameOfSubOperations
  intro a d s t
  refine ⟨fun h => ?_, fun h => ?_, fun h => ?_, fun h => ?_⟩
  · have hframe := latch_frame a s t h
    exact ⟨hframe, fun x => (congrArg (memRead · x) hframe).trans rfl⟩
  · obtain rfl := setDir_eq_next _ s t h
    exact ⟨rfl, fun _ => rfl⟩
  · have hframe := drive_frame d s t h
    exact ⟨hframe, fun x => (congrArg (memRead · x) hframe).trans rfl⟩
  · have hframe := sample_frame s t h
    exact ⟨hframe, fun x => (congrArg (memRead · x) hframe).trans rfl⟩

end Sys2Proof.Proofs
end

section
/-! SETDIR against the lines, SAMPLE of floating lines, and the two directions DRIVE and SAMPLE do not have
(41_data_bus.md R141 to R149). -/

namespace Sys2Proof.Machine

/-- On lines that stand well the direction may be switched, but not to OUTPUT against the chip
(20_memory.md R71). -/
theorem violation_switched (d : Dir) (s : State) (hv : violation s = none)
    (hc : d = .output → chipDrives s = false) : violation { s with dir := d } = none := by
  refine (violation_eq_none _).2 ⟨((violation_eq_none s).1 hv).1, ?_⟩
  cases d with
  | input => rfl
  | output => exact hc rfl

/-- Switching to OUTPUT against the chip is contention, met after the switch (41_data_bus.md R141). -/
theorem setDir_against_chip (s : State) (hd : s.dir = .input) (hc : chipDrives s = true) :
    setDir .output s =
      raise .busContention { s with dir := .output, trace := s.trace ++ [.dir .output] } := by
  have hw : s.weN = true := by
    rw [chipDrives, Bool.and_eq_true] at hc
    exact hc.2
  rw [setDir, if_neg (by simp [hd])]
  exact act_of_violation_after (.dirset .output) s .busContention (violation_listening s hd hw) rfl
    (violation_of_contention _ rfl hc)

/-- DRIVE while the bus listens (41_data_bus.md R146). -/
theorem drive_while_input (v : Byte) (s : State) (hd : s.dir = .input) :
    drive v s = raise .driveWhileInput s := by
  simp [drive, hd]

/-- SAMPLE while the bus drives (41_data_bus.md R149). -/
theorem sample_while_output (s : State) (hd : s.dir = .output) :
    sample s = raise .sampleWhileOutput s := by
  simp [sample, hd]

/-- Sampling some of the data lines while nobody drives: the k-th line sampled takes its bit of the k-th
free value, and `b` has those bits (20_memory.md R71). -/
theorem run_samples_floating (b : Byte) (bits : List (Fin 8)) (s : State) (hv : violation s = none)
    (hbus : bus s = .floating)
    (hb : ∀ k (h : k < bits.length),
      b.getLsbD bits[k].val = (Config.freeByte (s.draws + k)).getLsbD bits[k].val) :
    run (bits.map .sample) s = .next { s with
      rdata := bits.foldl (fun x (i : Fin 8) => setBit x i (b.getLsbD i.val)) s.rdata,
      draws := s.draws + bits.length,
      trace := s.trace ++ bits.map fun (i : Fin 8) => .sample i (b.getLsbD i.val) } := by
  induction bits generalizing s with
  | nil => simp
  | cons i bits ih =>
    have hfirst : (Config.freeByte s.draws).getLsbD i.val = b.getLsbD i.val :=
      (hb 0 (Nat.zero_lt_succ _)).symm
    rw [List.map_cons, run_cons, act_sample_floating i s hv hbus, hfirst, andThen_next,
      ih _ (by exact hv) (by exact hbus) fun k hk => ?_]
    · simp [Nat.add_assoc, Nat.add_comm 1]
    · simpa [Nat.add_assoc, Nat.add_comm 1] using hb (k + 1) (Nat.succ_lt_succ hk)

/-- The byte of eight fresh draws from number `n` on: the line sampled first is line 7
(41_data_bus.md R148). -/
def drawnByte (n : Nat) : Byte :=
  BitVec.ofFnLE fun (i : Fin 8) => (Config.freeByte (n + (7 - i.val))).getLsbD i.val

theorem getLsbD_drawnByte (n : Nat) (i : Fin 8) :
    (drawnByte n).getLsbD i.val = (Config.freeByte (n + (7 - i.val))).getLsbD i.val := by
  rw [drawnByte, BitVec.getLsbD_ofFnLE, dif_pos i.isLt]

/-- SAMPLE while nobody drives (41_data_bus.md R148; 20_memory.md R71). -/
theorem sample_floating (s : State) (hd : s.dir = .input) (hv : violation s = none)
    (hc : chipDrives s = false) :
    sample s = .next { s with
      rdata := drawnByte s.draws, draws := s.draws + 8,
      trace := s.trace ++ sampleEvents (drawnByte s.draws) } := by
  have hturn : ∀ k (h : k < msbFirst.length), 7 - msbFirst[k].val = k := by decide
  rw [sample, if_pos hd, sampleActions, run_samples_floating (drawnByte s.draws) msbFirst s hv
    (bus_nobody s hd hc) fun k hk => by rw [getLsbD_drawnByte, hturn k hk], setBit_msbFirst]
  rfl

end Sys2Proof.Machine
end

section
/-! The obligations of 41_data_bus.md. -/

namespace Sys2Proof.Proofs

open Sys2Proof.Machine

/-- Settles O28: only OUTPUT against the chip makes forbidden lines, and that is excluded. -/
theorem setdirSwitchesAllLines : Obligations.SetdirSwitchesAllLines := by
  unfold Obligations.SetdirSwitchesAllLines
  intro a d s hne hv hchip
  have hwell : violation { s with dir := dirOperand d } = none :=
    violation_switched _ s hv fun hout => hchip (by simpa [dirOperand] using hout)
  refine (setDir_ok _ s hv hwell).trans ?_
  rw [if_neg hne.symm, dirOperand]

/-- Settles O29: SETDIR looks at `DIR` before it acts, and so do read step 1 and write step 1. -/
theorem setdirIsIdempotent : Obligations.SetdirIsIdempotent := by
  unfold Obligations.SetdirIsIdempotent
  exact ⟨fun _ _ _ hd => if_pos hd.symm, fun s => ⟨readStep1_eq_setDir s, writeStep1_eq_setDir s⟩⟩

/-- Settles O30: the chip drives only with `WE_n` high, so the lines stand well until the switch. -/
theorem setdirAgainstTheChipFaults : Obligations.SetdirAgainstTheChipFaults := by
  unfold Obligations.SetdirAgainstTheChipFaults
  intro a d s hd hin hchip
  have hout : dirOperand d = .output := if_pos hd
  rw [exec, execSetdir, hout, setDir_against_chip s hin hchip]
  rfl

/-- Settles O31: the eight bits of the operand, each on its own line, make the operand. -/
theorem driveWritesEveryLine : Obligations.DriveWritesEveryLine := by
  unfold Obligations.DriveWritesEveryLine
  exact fun _ => drive_ok

/-- Settles O32: the bus holds the addressed cell while the chip drives. -/
theorem sampleReadsTheDrivenByte : Obligations.SampleReadsTheDrivenByte := by
  unfold Obligations.SampleReadsTheDrivenByte
  intro _ _ s hd hv hchip
  exact sample_driven _ s hd hv (bus_chip s hd hchip)

/-- Settles O33: the free byte is the one whose line `i`, sampled after `7 - i` others, takes its bit of
that draw. -/
theorem sampleOfFloatingLinesIsFree : Obligations.SampleOfFloatingLinesIsFree := by
  unfold Obligations.SampleOfFloatingLinesIsFree
  intro _ _ s hd hv hchip
  exact ⟨drawnByte s.draws, sample_floating s hd hv hchip, getLsbD_drawnByte s.draws⟩

/-- Settles O34: both look at `DIR` before they look at the lines. -/
theorem wrongDirectionFaults : Obligations.WrongDirectionFaults := by
  unfold Obligations.WrongDirectionFaults
  exact fun _ d s => ⟨drive_while_input d s, sample_while_output s⟩

end Sys2Proof.Proofs
end

section
/-! One numbered step at its position (42_controller.md R164 to R181), where the lines are asked for less
than a whole command leaves. -/

namespace Sys2Proof.Machine

/-- The sequencer does the step of its position and moves on (10_state.md R36). -/
theorem seqStep_at (q : Seq) {s u : State} (hq : s.seq = q) (h : numberedStep q s = .next u) :
    seqStep s = .next { u with seq := q.next } := by
  subst hq
  exact (seqStep_eq_next s _).2 ⟨u, h, rfl⟩

/-- Read step 1 finds the bus at INPUT (42_controller.md R164). -/
theorem readStep1_of_input (s : State) (hd : s.dir = .input) : readStep1 s = .next s := by
  rw [readStep1_eq_setDir, setDir, if_pos hd]

/-- Write step 1 finds the bus at OUTPUT (42_controller.md R172). -/
theorem writeStep1_of_output (s : State) (hd : s.dir = .output) : writeStep1 s = .next s := by
  rw [writeStep1_eq_setDir, setDir, if_pos hd]

/-- Write step 10 as the source does it (42_controller.md R181). -/
theorem writeStep10_of_reassert (s : State) (hr : s.params.oeReassert = true) (hc : s.ceN = true)
    (hw : s.weN = true) :
    writeStep10 s = .next { s with oeN := false, trace := s.trace ++ [.pin .oeN false] } := by
  rw [writeStep10, if_pos hr, run_singleton]
  exact act_ok (.pin .oeN false) s (violation_deselected s hc hw) rfl (violation_deselected _ hc hw)

/-- Write step 10 left out (42_controller.md R181). -/
theorem writeStep10_of_no_reassert (s : State) (hr : s.params.oeReassert = false) :
    writeStep10 s = .next s := by
  simp [writeStep10, hr]

/-- A chip that is not selected cannot contend, whatever output-enable is (20_memory.md R71). -/
theorem contention_deselected (s : State) (hc : s.ceN = true) (hw : s.weN = true) :
    contention s = false :=
  ((violation_eq_none s).1 (violation_deselected s hc hw)).2

end Sys2Proof.Machine
end

section
/-! What INIT leaves, READ with no chip on the bus (42_controller.md R170; 20_memory.md R74), and how many
events the commands make. -/

namespace Sys2Proof.Machine

/-- All that INIT leaves when it answers a next state (42_controller.md R162). -/
theorem exec_init_eq_next (a : Addr) (d : Byte) (s t : State) (h : exec (.init a d) s = .next t) :
    t = { s with
      cmdAddr := a, cmdData := d, dir := .input, ceN := true, oeN := true, weN := true,
      srclk := false, ser := false, rclk := false, inited := true,
      trace := s.trace ++ initEvents } := by
  obtain ⟨-, hidle, -, -⟩ := exec_command_eq_next _ s t rfl h
  rw [exec_init a d s hidle] at h
  cases h
  rfl

/-- Read steps 5 and 6 with nobody driving. -/
theorem finish_read_floating (s : State) (hq : s.seq = .rd5) (hd : s.dir = .input)
    (hw : s.weN = true) (hc : chipDrives s = false) :
    finish s = .next { s with
      rdata := drawnByte s.draws, draws := s.draws + 8, ceN := true, oeN := true, seq := .idle,
      trace := s.trace ++ sampleEvents (drawnByte s.draws) ++
        [.pin .ceN true, .pin .oeN true, .wait s.params.tSettle] } := by
  refine finish_through .rd5 hq nofun (sample_floating s hd (violation_listening s hd hw) hc) ?_
  exact finish_through .rd6 rfl nofun (readStep6_ok _ hd hw) (finish_idle _ rfl)

/-- READ with no chip there completes the same, with a byte of eight fresh draws. -/
theorem exec_read_noChip (a : Addr) (d : Byte) (s : State) (hs : Ready s)
    (hp : s.params.chipPresent = false) :
    exec (.read a d) s = .next { s with
      cmdAddr := a, cmdData := d, dir := .input, sr := a, al := a, ser := a.getLsbD 0,
      rclk := true, srclk := false, ceN := true, oeN := true, rdata := drawnByte s.draws,
      draws := s.draws + 8,
      trace := s.trace ++ readEvents s.params s.dir a (drawnByte s.draws) } := by
  rw [exec_read_eq_sample a d s hs]
  obtain ⟨hidle, -, -, hwe, -⟩ := hs
  refine Eq.trans (finish_read_floating _ rfl rfl hwe (by simp [chipDrives, hp])) ?_
  simp [readEvents, hidle]

/-- With or without a chip, READ makes its events around some sampled byte. -/
theorem exec_read_trace (a : Addr) (d : Byte) (s t : State) (hs : Ready s)
    (h : exec (.read a d) s = .next t) :
    ∃ b, t.trace = s.trace ++ readEvents s.params s.dir a b := by
  cases hp : s.params.chipPresent with
  | true =>
    rw [exec_read a d s hs hp] at h
    cases h
    exact ⟨_, rfl⟩
  | false =>
    rw [exec_read_noChip a d s hs hp] at h
    cases h
    exact ⟨_, rfl⟩

/-- 16 pulses of three events between the two edges of `RCLK` (40_address_latch.md R121). -/
theorem latchEvents_length (a : Addr) : (latchEvents a).length = 50 := rfl

/-- The events of READ by its six steps: `0|1 + 50 + 2 + 1 + 8 + 3` (42_controller.md R163). -/
theorem readEvents_length (p : Params) (d : Dir) (a : Addr) (b : Byte) :
    (readEvents p d a b).length = if d = .output then 65 else 64 := by
  cases d <;> rfl

/-- The events of WRITE by its ten steps: `0|1 + 2 + 51 + 2 + 2 + 8 + 1 + 2 + 2 + 0|1`
(42_controller.md R171). -/
theorem writeEvents_length (p : Params) (d : Dir) (a : Addr) (v : Byte) :
    (writeEvents p d a v).length =
      (if d = .output then 70 else 71) + if p.oeReassert then 1 else 0 := by
  have htail : (writeTail p).length = 3 + if p.oeReassert then 1 else 0 := by
    cases hr : p.oeReassert <;> simp [writeTail, hr]
  have hlead : (writeLead p d a).length = if d = .output then 55 else 56 := by
    cases d <;> rfl
  have hbody : (pulseBody p v).length = 10 := rfl
  simp only [writeEvents, List.length_append, List.length_cons, htail, hlead, hbody]
  cases d <;> simp <;> omega

end Sys2Proof.Machine
end

section
/-! The frames of READ and WRITE, from every state they answer a next state from: no verdict has stopped
them, so each numbered step has applied its actions in order (`run_eq_next`). -/

namespace Sys2Proof.Machine

/-- All that READ and WRITE do when they answer a next state: they are accepted and run to the return
(10_state.md R35; 70_reset_and_hazards.md R232). -/
theorem guarded_eq_next (q : Seq) (a : Addr) (d : Byte) (s t : State)
    (h : andThen (needInited s) (fun s => andThen (accept q a d s) finish) = .next t) :
    s.seq = .idle ∧ finish { s with cmdAddr := a, cmdData := d, seq := q } = .next t := by
  obtain ⟨u, hu, hut⟩ := (andThen_eq_next _ _ _).1 h
  obtain ⟨-, rfl⟩ := (needInited_eq_next _ _).1 hu
  obtain ⟨v, hv, hvt⟩ := (andThen_eq_next _ _ _).1 hut
  obtain ⟨hidle, rfl⟩ := (accept_eq_next _ _ _ _ _).1 hv
  exact ⟨hidle, hvt⟩

/-- `s` with what READ may write taken from `t` (42_controller.md R163). -/
def readWrites (t s : State) : State :=
  { s with dir := t.dir, sr := t.sr, al := t.al, ser := t.ser, rclk := t.rclk, srclk := t.srclk,
           ceN := t.ceN, oeN := t.oeN, rdata := t.rdata, draws := t.draws, trace := t.trace,
           seq := t.seq }

theorem readWrites_trans {s t u : State} (hu : u = readWrites u s) (ht : t = readWrites t u) :
    t = readWrites t s :=
  ht.trans ((congrArg (readWrites t) hu).trans rfl)

/-- Each step of READ writes within the frame (42_controller.md R164 to R169). -/
theorem numberedStep_readWrites (q : Seq) (hq : q.reading = true) (s t : State)
    (h : numberedStep q s = .next t) : t = readWrites t s := by
  cases q with
  | idle =>
    cases h
    rfl
  | rd1 =>
    rw [numberedStep, readStep1_eq_setDir] at h
    obtain rfl := setDir_eq_next _ s t h
    rfl
  | rd2 =>
    rw [latch_frame _ s t h]
    rfl
  | rd5 =>
    rw [sample_frame s t h]
    rfl
  | rd3 | rd4 | rd6 =>
    obtain rfl := run_eq_next _ s t h
    rfl
  | _ => cases hq

/-- From a position of READ to its return. -/
theorem finish_readWrites (s t : State) (hs : s.seq.reading = true) (h : finish s = .next t) :
    t.seq = .idle ∧ t = readWrites t s := by
  have hreturn :=
    finish_induction (fun u => u.seq.reading = true ∧ u = readWrites u s) ?_ s t h ⟨hs, rfl⟩
  · obtain ⟨hidle, -, hframe⟩ := hreturn
    exact ⟨hidle, hframe⟩
  rintro u v huv ⟨hq, hu⟩
  obtain ⟨w, hw, rfl⟩ := (seqStep_eq_next u v).1 huv
  refine ⟨u.seq.reading_next hq, readWrites_trans hu ?_⟩
  rw [numberedStep_readWrites _ hq u w hw]
  rfl

/-- `s` with the three control lines de-asserted. -/
def State.deselected (s : State) : State := { s with ceN := true, oeN := true, weN := true }

/-- LATCH does not look at the control lines, but for the verdicts. -/
theorem foldl_latchActions_deselected (a : Addr) (s : State) :
    (latchActions a).foldl (fun s x => x.apply s) s.deselected =
      ((latchActions a).foldl (fun s x => x.apply s) s).deselected := by
  refine List.foldl_rel (r := fun u v : State => u = v.deselected) (by rfl) fun x hx u v huv => ?_
  rw [latchActions_eq_lead, List.mem_append, List.mem_singleton] at hx
  subst huv
  obtain hx | rfl := hx
  · obtain rfl | ⟨b, rfl | rfl⟩ := eq_pin_of_mem_latchLeadActions a x hx
    all_goals rfl
  · rfl

/-- After a LATCH the pins select the cell of its operand, whatever the lines were, `SRCLK` included
(40_address_latch.md R123, R125). -/
theorem latch_addressPins (a : Addr) (s t : State) (h : latch a s = .next t) :
    addressPins t = cell a := by
  have hv : violation s.deselected = none := violation_deselected _ rfl rfl
  have hlatch : ∃ u, latch a s.deselected = .next u ∧ addressPins u = cell a := by
    cases hs : s.srclk with
    | false => exact ⟨_, latch_ok a s.deselected hs hv (.inl rfl), rfl⟩
    | true => exact ⟨_, latch_srclkHigh a s.deselected hs hv (.inl rfl), addressPins_of_al _ _ _ rfl⟩
  obtain ⟨u, hu, hpins⟩ := hlatch
  have hsame : u = t.deselected := by
    rw [run_eq_next _ _ u hu, run_eq_next _ _ t h, foldl_latchActions_deselected]
  rw [hsame] at hpins
  exact hpins

/-- `s` with what WRITE may write taken from `t` (42_controller.md R171). -/
def writeWrites (t s : State) : State :=
  { s with dir := t.dir, oeN := t.oeN, rclk := t.rclk, srclk := t.srclk, ser := t.ser, sr := t.sr,
           al := t.al, ceN := t.ceN, weN := t.weN, dout := t.dout, mem := t.mem, trace := t.trace,
           seq := t.seq }

/-- `t` is `s` but for what WRITE may write, and in MEM only the cell of the operand may differ. -/
structure WriteFrame (s t : State) : Prop where
  writes : t = writeWrites t s
  cells : ∀ x, x ≠ cell s.cmdAddr → memRead t x = memRead s x

theorem WriteFrame.cmdAddr {s t : State} (h : WriteFrame s t) : t.cmdAddr = s.cmdAddr := by
  rw [h.writes]
  rfl

theorem WriteFrame.refl (s : State) : WriteFrame s s := ⟨rfl, fun _ _ => rfl⟩

theorem WriteFrame.trans {s t u : State} (hu : WriteFrame s u) (ht : WriteFrame u t) :
    WriteFrame s t where
  writes := ht.writes.trans ((congrArg (writeWrites t) hu.writes).trans rfl)
  cells x hx := (ht.cells x (by rwa [hu.cmdAddr])).trans (hu.cells x hx)

/-- What a WRITE has made sure of at each of its positions, whatever the lines were at its acceptance: from
step 3 to step 8 CORE alone drives, and from step 4 on the pins select the cell of the operand. -/
def WriteAt (s : State) : Seq → Prop
  | .wr1 => True
  | .wr2 => s.dir = .output
  | .wr3 => s.dir = .output ∧ s.oeN = true
  | .wr4 | .wr5 | .wr6 | .wr7 | .wr8 =>
    s.dir = .output ∧ s.oeN = true ∧ addressPins s = cell s.cmdAddr
  | .wr9 | .wr10 | .idle => addressPins s = cell s.cmdAddr
  | .ini | .rd1 | .rd2 | .rd3 | .rd4 | .rd5 | .rd6 => False

/-- A fall of write-enable stores nothing (20_memory.md R73). -/
theorem apply_weN_low (s : State) :
    (Action.pin .weN false).apply s =
      { s with weN := false, trace := s.trace ++ [.pin .weN false] } := by
  simp [Action.apply, writePin, emit]

/-- While CORE alone drives, write-enable made high stores `DOUT` in the addressed cell or nothing at all,
and takes no free value (20_memory.md R73). -/
theorem apply_weN_high_core (s : State) (hd : s.dir = .output) (ho : s.oeN = true) :
    (Action.pin .weN true).apply s = { s with
      weN := true, trace := s.trace ++ [.pin .weN true],
      mem := if !s.weN && !s.ceN && (s.params.chipPresent && s.params.chipCommits) then
        (memWrite (addressPins s) s.dout s).mem else s.mem } := by
  simp only [Action.apply, writePin, emit, commit_core s hd (chipDrives_oeHigh s ho), Bool.and_true]
  cases !s.weN && !s.ceN <;> simp

/-- Each step of WRITE writes within the frame and leads to what holds at the next position
(42_controller.md R172 to R181). -/
theorem numberedStep_writeFrame (q : Seq) (s t : State) (hs : WriteAt s q)
    (h : numberedStep q s = .next t) : WriteFrame s t ∧ WriteAt t q.next := by
  cases q with
  | idle =>
    cases h
    exact ⟨.refl s, hs⟩
  | wr1 =>
    rw [numberedStep, writeStep1_eq_setDir] at h
    obtain rfl := setDir_eq_next _ s t h
    exact ⟨⟨rfl, fun _ _ => rfl⟩, rfl⟩
  | wr2 =>
    obtain rfl := run_eq_next _ s t h
    exact ⟨⟨rfl, fun _ _ => rfl⟩, hs, rfl⟩
  | wr3 =>
    obtain ⟨u, hu, hut⟩ := (andThen_eq_next _ _ _).1 h
    obtain rfl := run_eq_next _ u t hut
    have hpins := latch_addressPins _ s u hu
    rw [latch_frame _ s u hu] at hpins ⊢
    exact ⟨⟨rfl, fun _ _ => rfl⟩, hs.1, hs.2, hpins⟩
  | wr5 =>
    obtain rfl := run_eq_next _ s t h
    rw [List.foldl_cons, apply_weN_low]
    exact ⟨⟨rfl, fun _ _ => rfl⟩, hs⟩
  | wr6 =>
    rw [drive_frame _ s t h]
    exact ⟨⟨rfl, fun _ _ => rfl⟩, hs⟩
  | wr8 =>
    obtain ⟨hd, ho, hpins⟩ := hs
    obtain rfl := run_eq_next _ s t h
    rw [List.foldl_cons, apply_weN_high_core s hd ho]
    refine ⟨⟨rfl, fun x hx => ?_⟩, hpins⟩
    rw [← hpins] at hx
    have hother := memRead_memWrite_other (addressPins s) x s.dout s hx
    cases hstore : !s.weN && !s.ceN && (s.params.chipPresent && s.params.chipCommits)
    · rfl
    · exact hother
  | wr10 =>
    rw [numberedStep, writeStep10] at h
    split at h
    · obtain rfl := run_eq_next _ s t h
      exact ⟨⟨rfl, fun _ _ => rfl⟩, hs⟩
    · cases h
      exact ⟨.refl s, hs⟩
  | wr4 | wr7 | wr9 =>
    obtain rfl := run_eq_next _ s t h
    exact ⟨⟨rfl, fun _ _ => rfl⟩, hs⟩
  | _ => cases hs

/-- From a position of WRITE to its return. -/
theorem finish_writeFrame (s t : State) (hs : WriteAt s s.seq) (h : finish s = .next t) :
    t.seq = .idle ∧ WriteFrame s t ∧ addressPins t = cell s.cmdAddr := by
  have hreturn := finish_induction (fun u => WriteFrame s u ∧ WriteAt u u.seq) ?_ s t h ⟨.refl s, hs⟩
  · obtain ⟨hidle, hframe, hat⟩ := hreturn
    rw [hidle] at hat
    exact ⟨hidle, hframe, hframe.cmdAddr ▸ hat⟩
  rintro u v huv ⟨hframe, hat⟩
  obtain ⟨w, hw, rfl⟩ := (seqStep_eq_next u v).1 huv
  obtain ⟨⟨hwrites, hcells⟩, hnext⟩ := numberedStep_writeFrame _ u w hat hw
  refine ⟨hframe.trans ⟨?_, hcells⟩, hnext⟩
  rw [hwrites]
  rfl

end Sys2Proof.Machine
end

section
/-! The obligations of 42_controller.md. -/

namespace Sys2Proof.Proofs

open Sys2Proof.Machine

/-- Settles O35: INIT's actions are applied without verdicts, so nothing is asked of the lines. -/
theorem initLeavesTheSafeIdleState : Obligations.InitLeavesTheSafeIdleState := by
  unfold Obligations.InitLeavesTheSafeIdleState
  exact exec_init

/-- Settles O36: the six steps of READ in order, the chip driving at the sample. -/
theorem readReturnsTheAddressedCell : Obligations.ReadReturnsTheAddressedCell := by
  unfold Obligations.ReadReturnsTheAddressedCell
  intro a d s hs hp
  exact ⟨_, exec_read a d s hs hp, rfl, rfl⟩

/-- Settles O37: the six steps of READ in order, nobody driving at the sample. -/
theorem readWithNoChipIsFree : Obligations.ReadWithNoChipIsFree := by
  unfold Obligations.ReadWithNoChipIsFree
  intro a d s hs hp
  exact ⟨drawnByte s.draws, exec_read_noChip a d s hs hp, getLsbD_drawnByte s.draws⟩

/-- Settles O38: the ten steps of WRITE in order, the commit at step 8. -/
theorem writeStoresTheByte : Obligations.WriteStoresTheByte := by
  unfold Obligations.WriteStoresTheByte
  exact exec_write

/-- Settles O39: each step of READ where the lines let it happen. -/
theorem readStepsAtTheirPositions : Obligations.ReadStepsAtTheirPositions := by
  unfold Obligations.ReadStepsAtTheirPositions
  intro s
  refine ⟨fun hq hd hc hw => ?_, fun hq hd => seqStep_at .rd1 hq (readStep1_of_input s hd),
    fun hq hd hw => seqStep_at .rd3 hq (readStep3_ok s hd hw),
    fun hq hd hw => seqStep_at .rd4 hq (readStep4_ok s hd hw),
    fun hq hd hw => seqStep_at .rd6 hq (readStep6_ok s hd hw)⟩
  rw [seqStep_at .rd1 hq (readStep1_ok s hc hw), if_pos hd]
  rfl

/-- Settles O40: each step of WRITE where the lines let it happen. -/
theorem writeStepsAtTheirPositions : Obligations.WriteStepsAtTheirPositions := by
  unfold Obligations.WriteStepsAtTheirPositions
  intro s
  refine ⟨fun hq hd hc hw => ?_, fun hq hd => seqStep_at .wr1 hq (writeStep1_of_output s hd),
    fun hq hc hw => seqStep_at .wr2 hq (writeStep2_ok s hc hw),
    fun hq ho hw => seqStep_at .wr4 hq (writeStep4_ok s ho hw),
    fun hq ho => seqStep_at .wr5 hq (writeStep5_ok s ho),
    fun hq ho => seqStep_at .wr7 hq (writeStep7_ok s ho),
    fun hq ho hw => seqStep_at .wr9 hq (writeStep9_ok s ho hw)⟩
  rw [seqStep_at .wr1 hq (writeStep1_ok s hc hw), if_pos hd]
  rfl

/-- Settles O41: the chip is deselected at step 10, so lowering output-enable lets nobody drive. -/
theorem writeStepTenFollowsTheParameter : Obligations.WriteStepTenFollowsTheParameter := by
  unfold Obligations.WriteStepTenFollowsTheParameter
  refine ⟨rfl, fun s hq hc hw => ⟨fun hr => ?_, fun hr => ?_⟩⟩
  · exact ⟨seqStep_at .wr10 hq (writeStep10_of_reassert s hr hc hw), contention_deselected _ hc hw⟩
  · exact seqStep_at .wr10 hq (writeStep10_of_no_reassert s hr)

/-- Settles O44: INIT by its whole end state, READ step by step from whatever the lines held. -/
theorem frameOfInitAndRead : Obligations.FrameOfInitAndRead := by
  unfold Obligations.FrameOfInitAndRead
  intro a d s t
  refine ⟨fun h => ?_, fun h => ?_⟩
  · obtain rfl := exec_init_eq_next a d s t h
    exact ⟨rfl, fun _ => rfl⟩
  · obtain ⟨hidle, hfin⟩ := guarded_eq_next .rd1 a d s t h
    obtain ⟨hreturned, hframe⟩ := finish_readWrites _ t rfl hfin
    have hseq : t.seq = s.seq := hreturned.trans hidle.symm
    rw [readWrites, hseq] at hframe
    exact ⟨hframe, fun x => (congrArg (memRead · x) hframe).trans rfl⟩

/-- Settles O45: the one store of WRITE is at step 8, with the address latched and CORE alone driving, so
it goes to the cell of the operand and takes no free value. -/
theorem frameOfWrite : Obligations.FrameOfWrite := by
  unfold Obligations.FrameOfWrite
  intro a v s t h
  obtain ⟨hidle, hfin⟩ := guarded_eq_next .wr1 a v s t h
  obtain ⟨hreturned, ⟨hwrites, hcells⟩, hpins⟩ := finish_writeFrame _ t (by exact trivial) hfin
  have hseq : t.seq = s.seq := hreturned.trans hidle.symm
  rw [writeWrites, hseq] at hwrites
  exact ⟨hwrites, hpins, fun x hx => hcells x (hpins ▸ hx)⟩

/-- Settles O47: the lengths of the events each command appends. -/
theorem eventCounts : Obligations.EventCounts := by
  unfold Obligations.EventCounts
  intro a d s t
  refine ⟨fun h => ?_, fun hs h => ?_, fun hs h => ?_⟩
  · obtain rfl := exec_init_eq_next a d s t h
    exact List.length_append
  · obtain ⟨b, htrace⟩ := exec_read_trace a d s t hs h
    rw [htrace, List.length_append, readEvents_length]
  · rw [exec_write a d s hs] at h
    cases h
    rw [List.length_append, writeEvents_length, Nat.add_assoc]

/-- Settles O53: the end state of WRITE names MEM, the presence and the commit setting in MEM only. -/
theorem coreCannotTellIfTheChipCommits : Obligations.CoreCannotTellIfTheChipCommits := by
  unfold Obligations.CoreCannotTellIfTheChipCommits
  intro a v s t m present commits hs h
  rw [exec_write a v s hs] at h
  cases h
  exact ⟨_, exec_write a v _ hs, fun hnone => if_neg (by simp [hnone])⟩

end Sys2Proof.Proofs
end

section
/-! The verdicts a run meets (60_exceptions.md R200, R202): what a word HOST offers between commands comes
to. -/

namespace Sys2Proof.Machine

/-- With no move left CORE idles with everything held (60_exceptions.md R221). -/
theorem step_of_no_move (s : State) (hf : s.faultMark = none) (hs : s.seq = .idle)
    (hp : s.port = []) : step s = .next s := by
  simp [step, hf, hs, hp]

/-- The command port finds two things wrong with a word and no more (30_encoding.md R97). -/
theorem decodeHost_eq_error (w : Command) (e : DecodeError) (h : decodeHost w = .error e) :
    e = .reservedOp ∨ e = .internalOp := by
  by_cases hop : opField w = 0b011#3
  · rw [decodeHost_reserved w hop] at h
    cases h
    exact .inl rfl
  · obtain ⟨i, hi⟩ := exists_decode w hop
    cases hint : i.internal with
    | true =>
      rw [decodeHost_internal w ((internal_eq_bit26 w i hi).symm.trans hint)] at h
      cases h
      exact .inr rfl
    | false =>
      rw [decodeHost_command w i hint ((decode_eq_ok w i).1 hi)] at h
      cases h

/-- A move of a run is one of HOST's, so it asks for what the command port makes of its word
(60_exceptions.md R208). -/
theorem HostOnly.decode_eq {s : State} {m : Move} {rest : List Move} (h : HostOnly s)
    (hp : s.port = m :: rest) : m.decode = decodeHost m.word := by
  have hissuer : m.issuer = .host := h m (hp ▸ List.mem_cons_self ..)
  rw [Move.decode, hissuer]

/-- READ completes with a chip on the bus and without one (42_controller.md R163; 20_memory.md R74). -/
theorem exec_read_completes (a : Addr) (d : Byte) (s : State) (hs : Ready s) :
    ∃ t, exec (.read a d) s = .next t := by
  cases hp : s.params.chipPresent with
  | true => exact ⟨_, exec_read a d s hs hp⟩
  | false => exact ⟨_, exec_read_noChip a d s hs hp⟩

/-- A command handed to an idle CORE that is INIT, or comes after INIT, completes. -/
theorem exec_command_completes (i : Instr) (s : State) (hi : i.isCommand = true) (hidle : s.seq = .idle)
    (hs : s.inited = true → Ready s) (h : s.inited = true ∨ i.op = 0b000#3) :
    ∃ t, exec i s = .next t := by
  cases i with
  | init a d => exact ⟨_, exec_init a d s hidle⟩
  | read a d => exact exec_read_completes a d s (hs (h.resolve_right (by simp [Instr.op])))
  | write a v => exact ⟨_, exec_write a v s (hs (h.resolve_right (by simp [Instr.op])))⟩
  | latch a d | setdir a d | drive a d | sample a d => cases hi

/-- Any other command is refused at its guard (70_reset_and_hazards.md R232). -/
theorem exec_command_refused_before_init (i : Instr) (s : State) (hi : i.isCommand = true)
    (hs : s.inited = false) (hop : i.op ≠ 0b000#3) : exec i s = .refused .notInitialised := by
  have hguard : needInited s = .refused .notInitialised := by simp [needInited, hs]
  cases i with
  | init a d => exact absurd rfl hop
  | read a d => rw [exec, execRead, hguard, andThen_refused]
  | write a v => rw [exec, execWrite, hguard, andThen_refused]
  | latch a d | setdir a d | drive a d | sample a d => cases hi

/-- In a run a word HOST offers that is INIT, or a command after INIT, makes a whole step. -/
theorem step_of_accepted_command (s : State) (m : Move) (rest : List Move) (i : Instr) (hs : RunInv s)
    (hp : s.port = m :: rest) (hi : decodeHost m.word = .ok i)
    (h : s.inited = true ∨ i.op = 0b000#3) : ∃ t, step s = .next t := by
  obtain ⟨hmark, hidle, hhost, -, hlines⟩ := hs
  rw [step_of_move s m rest i hmark hidle hp ((hhost.decode_eq hp).trans hi)]
  exact exec_command_completes i _ (isCommand_of_decodeHost _ _ hi) hidle
    (fun hinited => (hlines hinited).1) h

/-- All that a step of a run can do: it completes, or its word is no command, or is a READ or WRITE before
the first INIT. -/
theorem step_outcome_of_runInv (s : State) (hs : RunInv s) :
    (∃ t, step s = .next t) ∨
      ∃ r, step s = .refused r ∧ (r = .reservedOp ∨ r = .internalOp ∨ r = .notInitialised) := by
  have ⟨hmark, hidle, hhost, _, _⟩ := hs
  cases hp : s.port with
  | nil => exact .inl ⟨s, step_of_no_move s hmark hidle hp⟩
  | cons m rest =>
    have hdecode := hhost.decode_eq hp
    cases hi : decodeHost m.word with
    | error e =>
      refine .inr ⟨_, step_of_refused_move s m rest e hmark hidle hp (hdecode.trans hi), ?_⟩
      obtain rfl | rfl := decodeHost_eq_error _ e hi
      · exact .inl rfl
      · exact .inr (.inl rfl)
    | ok i =>
      by_cases h : s.inited = true ∨ i.op = 0b000#3
      · exact .inl (step_of_accepted_command s m rest i hs hp hi h)
      · obtain ⟨hinited, hop⟩ := not_or.1 h
        refine .inr ⟨.notInitialised, ?_, .inr (.inr rfl)⟩
        rw [step_of_move s m rest i hmark hidle hp (hdecode.trans hi)]
        exact exec_command_refused_before_init i _ (isCommand_of_decodeHost _ _ hi)
          (Bool.eq_false_iff.2 hinited) hop

end Sys2Proof.Machine
end

section
/-! The obligations of 60_exceptions.md. -/

namespace Sys2Proof.Proofs

open Sys2Proof.Machine

/-- Settles O58: between commands the lines stand as READ and WRITE need them, so only the word, or its
coming before INIT, can be refused. -/
theorem runsNeverFault : Obligations.RunsNeverFault := by
  unfold Obligations.RunsNeverFault
  intro s hs
  refine ⟨fun f hf => ?_, fun r hr => ?_,
    fun m rest i hp hi h => step_of_accepted_command s m rest i hs hp hi h⟩
  · obtain ⟨t, ht⟩ | ⟨r, hr, -⟩ := step_outcome_of_runInv s hs
    · cases ht.symm.trans hf
    · cases hr.symm.trans hf
  · obtain ⟨t, ht⟩ | ⟨r', hr', hnamed⟩ := step_outcome_of_runInv s hs
    · cases ht.symm.trans hr
    · cases hr'.symm.trans hr
      exact hnamed

/-- Settles O10: at `IDLE` with an empty port the step has nothing to take. -/
theorem idleStepHoldsEverything : Obligations.IdleStepHoldsEverything := by
  unfold Obligations.IdleStepHoldsEverything
  exact step_of_no_move

end Sys2Proof.Proofs
end

section
/-! The lines at every moment of a list of events: what holds throughout it, and what holds where it
ends. -/

namespace Sys2Proof.Machine

/-- `P` holds of the lines before the first event and after each. -/
def Lines.Throughout (P : Lines → Prop) (l : Lines) (es : List Event) : Prop := ∀ m ∈ l.moments es, P m

/-- An event after which `P` holds of the lines wherever it held before. -/
def Event.Keeps (P : Lines → Prop) (e : Event) : Prop := ∀ l : Lines, P l → P (l.after e)

@[simp] theorem Lines.afterAll_nil (l : Lines) : l.afterAll [] = l := rfl

@[simp] theorem Lines.afterAll_cons (l : Lines) (e : Event) (es : List Event) :
    l.afterAll (e :: es) = (l.after e).afterAll es := rfl

@[simp] theorem Lines.afterAll_append (l : Lines) (es fs : List Event) :
    l.afterAll (es ++ fs) = (l.afterAll es).afterAll fs := List.foldl_append

variable {P Q : Lines → Prop} {l : Lines}

theorem throughout_nil : l.Throughout P [] ↔ P l := List.forall_mem_singleton

theorem throughout_cons (e : Event) (es : List Event) :
    l.Throughout P (e :: es) ↔ P l ∧ (l.after e).Throughout P es := List.forall_mem_cons

theorem Lines.Throughout.first {es : List Event} (h : l.Throughout P es) : P l := by
  cases es with
  | nil => exact throughout_nil.1 h
  | cons e es => exact ((throughout_cons e es).1 h).1

/-- The last moment of the first part is the first moment of the second. -/
theorem throughout_append (es fs : List Event) :
    l.Throughout P (es ++ fs) ↔ l.Throughout P es ∧ (l.afterAll es).Throughout P fs := by
  induction es generalizing l with
  | nil => exact ⟨fun h => ⟨throughout_nil.2 h.first, h⟩, And.right⟩
  | cons e es ih =>
    rw [List.cons_append, throughout_cons, throughout_cons, ih, and_assoc]
    rfl

theorem Lines.Throughout.mono {es : List Event} (h : l.Throughout P es) (hPQ : ∀ m, P m → Q m) :
    l.Throughout Q es := fun m hm => hPQ m (h m hm)

/-- What every event keeps holds throughout. -/
theorem throughout_of_keeps {es : List Event} (hes : ∀ e ∈ es, e.Keeps P) (hl : P l) :
    l.Throughout P es := by
  induction es generalizing l with
  | nil => exact throughout_nil.2 hl
  | cons e es ih =>
    obtain ⟨he, hrest⟩ := List.forall_mem_cons.1 hes
    exact (throughout_cons e es).2 ⟨hl, ih hrest (he l hl)⟩

/-- An event that a command makes or leaves out, as step 1 of READ and WRITE and write step 10 do. -/
theorem forall_mem_optional {Q : Event → Prop} (c : Prop) [Decidable c] {e : Event} (he : Q e) :
    ∀ x ∈ if c then [e] else [], Q x := by
  split
  · exact List.forall_mem_singleton.2 he
  · exact List.forall_mem_nil _

/-- An event that does not write write-enable leaves it as it was (10_state.md R31). -/
theorem after_weN (e : Event) (he : ∀ x, e ≠ .pin .weN x) (l : Lines) : (l.after e).weN = l.weN := by
  cases e with
  | pin p x =>
    cases p with
    | weN => exact absurd rfl (he x)
    | _ => rfl
  | dir d => rfl
  | sample i x => rfl
  | wait n => rfl

end Sys2Proof.Machine
end

section
/-! The events of the operations: what they write, where they leave the lines, and how long they take. -/

namespace Sys2Proof.Machine

variable {Q : Event → Prop}

/-- LATCH writes the three shift-register pins (40_address_latch.md R121). -/
theorem forall_mem_latchEvents (a : Addr) (hrclk : ∀ x, Q (.pin .rclk x))
    (hsrclk : ∀ x, Q (.pin .srclk x)) (hser : ∀ x, Q (.pin .ser x)) : ∀ e ∈ latchEvents a, Q e := by
  intro e he
  rw [latchEvents, List.mem_cons, List.mem_append, List.mem_singleton] at he
  obtain rfl | he | rfl := he
  · exact hrclk false
  · obtain ⟨i, -, he⟩ := List.mem_flatMap.1 he
    simp only [pulseEvents, List.mem_cons, List.not_mem_nil, or_false] at he
    obtain rfl | rfl | rfl := he
    · exact hser _
    · exact hsrclk true
    · exact hsrclk false
  · exact hrclk true

/-- DRIVE writes the eight data lines (41_data_bus.md R145). -/
theorem forall_mem_driveEvents (v : Byte) (h : ∀ i x, Q (.pin (.d i) x)) :
    ∀ e ∈ driveEvents v, Q e := by
  intro e he
  obtain ⟨i, -, rfl⟩ := List.mem_map.1 he
  exact h i _

/-- SAMPLE writes nothing (41_data_bus.md R148). -/
theorem forall_mem_sampleEvents (b : Byte) (h : ∀ i x, Q (.sample i x)) :
    ∀ e ∈ sampleEvents b, Q e := by
  intro e he
  obtain ⟨i, -, rfl⟩ := List.mem_map.1 he
  exact h i _

/-- The lines where a LATCH ends (40_address_latch.md R123). -/
@[simp] theorem afterAll_latchEvents (a : Addr) (l : Lines) :
    l.afterAll (latchEvents a) =
      { l with rclk := true, srclk := false, ser := a.getLsbD 0 } := rfl

/-- The lines where a DRIVE ends: each of its actions makes its own event (41_data_bus.md R145). -/
@[simp] theorem afterAll_driveEvents (v : Byte) (l : Lines) :
    l.afterAll (driveEvents v) = { l with dout := v } :=
  linesAfter_driveActions v l

@[simp] theorem afterAll_sampleEvents (b : Byte) (l : Lines) : l.afterAll (sampleEvents b) = l := rfl

/-- Read step 1 leaves the bus at INPUT (42_controller.md R164). -/
theorem afterAll_switch_input (l : Lines) :
    l.afterAll (if l.dir = .output then [.dir .input] else []) = { l with dir := .input } := by
  obtain ⟨_, _, _, _, _, _, _, d⟩ := l
  cases d <;> rfl

/-- Write step 1 leaves the bus at OUTPUT (42_controller.md R172). -/
theorem afterAll_switch_output (l : Lines) :
    l.afterAll (if l.dir = .input then [.dir .output] else []) = { l with dir := .output } := by
  obtain ⟨_, _, _, _, _, _, _, d⟩ := l
  cases d <;> rfl

/-- The lines where a READ ends (42_controller.md R163). -/
theorem afterAll_readEvents (p : Params) (a : Addr) (b : Byte) (l : Lines) :
    l.afterAll (readEvents p l.dir a b) = { l with
      dir := .input, rclk := true, srclk := false, ser := a.getLsbD 0, ceN := true, oeN := true } := by
  simp [readEvents, afterAll_switch_input, Lines.after]

/-- The lines where write-enable falls in a WRITE (42_controller.md R172 to R175). -/
theorem afterAll_writeLead (p : Params) (a : Addr) (l : Lines) :
    l.afterAll (writeLead p l.dir a) = { l with
      dir := .output, oeN := true, rclk := true, srclk := false, ser := a.getLsbD 0,
      ceN := false } := by
  simp [writeLead, afterAll_switch_output, Lines.after]

/-- The lines where write-enable rises in a WRITE (42_controller.md R176 to R178). -/
@[simp] theorem afterAll_pulseBody (p : Params) (v : Byte) (l : Lines) :
    l.afterAll (pulseBody p v) = { l with dout := v } := by
  simp [pulseBody, Lines.after]

/-- The lines where a WRITE ends (42_controller.md R171). -/
theorem afterAll_writeEvents (p : Params) (a : Addr) (v : Byte) (l : Lines) :
    l.afterAll (writeEvents p l.dir a v) = { l with
      dir := .output, rclk := true, srclk := false, ser := a.getLsbD 0, dout := v,
      ceN := true, weN := true, oeN := !p.oeReassert } := by
  rw [writeEvents, Lines.afterAll_append, afterAll_writeLead, writeTail]
  cases p.oeReassert <;> simp [Lines.after]

theorem leastTime_append (es fs : List Event) :
    leastTime (es ++ fs) = leastTime es + leastTime fs := by
  induction es with
  | nil => exact (Nat.zero_add _).symm
  | cons e es ih =>
    cases e with
    | wait n => exact (congrArg (n + ·) ih).trans (Nat.add_assoc ..).symm
    | pin p x | dir d | sample i x => exact ih

/-- READ waits twice (42_controller.md R167, R169). -/
theorem leastTime_readEvents (p : Params) (d : Dir) (a : Addr) (b : Byte) :
    leastTime (readEvents p d a b) = p.tOeValid + p.tSettle := by
  cases d <;> rfl

/-- WRITE waits three times before its pulse (42_controller.md R173 to R175). -/
theorem leastTime_writeLead (p : Params) (d : Dir) (a : Addr) :
    leastTime (writeLead p d a) = 3 * p.tSettle := by
  have hwaits : leastTime (writeLead p d a) = p.tSettle + (p.tSettle + (p.tSettle + 0)) := by
    cases d <;> rfl
  omega

/-- WRITE waits twice in its pulse (42_controller.md R176, R178). -/
theorem leastTime_pulseBody (p : Params) (v : Byte) :
    leastTime (pulseBody p v) = p.tSettle + p.tWp := rfl

/-- WRITE waits twice after its pulse (42_controller.md R179, R180). -/
theorem leastTime_writeTail (p : Params) : leastTime (writeTail p) = 2 * p.tSettle := by
  have hwaits : leastTime (writeTail p) = p.tSettle + (p.tSettle + 0) := by
    rw [writeTail]
    cases p.oeReassert <;> rfl
  omega

theorem leastTime_writeEvents (p : Params) (d : Dir) (a : Addr) (v : Byte) :
    leastTime (writeEvents p d a v) = 6 * p.tSettle + p.tWp := by
  have hlead := leastTime_writeLead p d a
  have hbody := leastTime_pulseBody p v
  have htail := leastTime_writeTail p
  simp only [writeEvents, leastTime_append, leastTime]
  omega

end Sys2Proof.Machine
end

section
/-! The two states of the lines that must never occur, at every moment of a run of commands
(70_reset_and_hazards.md R242, R243). -/

namespace Sys2Proof.Machine

/-- `DIR = OUTPUT`, `CE_n = 0` and `OE_n = 0` do not hold together (70_reset_and_hazards.md R242). -/
def Lines.Uncontended (l : Lines) : Prop := ¬(l.dir = .output ∧ l.ceN = false ∧ l.oeN = false)

/-- `OE_n` and `WE_n` are not low together (70_reset_and_hazards.md R243). -/
def Lines.Unoverlapped (l : Lines) : Prop := ¬(l.oeN = false ∧ l.weN = false)

/-- Neither hazard holds. -/
def Lines.Safe (l : Lines) : Prop := l.Uncontended ∧ l.Unoverlapped

/-- The bus listens, so CORE does not drive against the chip (42_controller.md R164). -/
def Lines.Listening (l : Lines) : Prop := l.dir = .input

/-- The chip is deselected and write-enable is high, as between commands (10_state.md R45). -/
def Lines.AtRest (l : Lines) : Prop := l.ceN = true ∧ l.weN = true

/-- The bus listens and write-enable is high, as in a READ. -/
def Lines.Reading (l : Lines) : Prop := l.dir = .input ∧ l.weN = true

/-- Output-enable is high, as in a WRITE from its step 2 on (42_controller.md R173). -/
def Lines.OutputOff (l : Lines) : Prop := l.oeN = true

theorem Lines.Listening.uncontended {l : Lines} (h : l.Listening) : l.Uncontended := by
  rintro ⟨hd, -, -⟩
  cases h.symm.trans hd

theorem Lines.AtRest.safe {l : Lines} (h : l.AtRest) : l.Safe := by
  obtain ⟨hce, hwe⟩ := h
  simp [Lines.Safe, Lines.Uncontended, Lines.Unoverlapped, hce, hwe]

theorem Lines.Reading.safe {l : Lines} (h : l.Reading) : l.Safe := by
  obtain ⟨hd, hwe⟩ := h
  simp [Lines.Safe, Lines.Uncontended, Lines.Unoverlapped, hd, hwe]

theorem Lines.OutputOff.safe {l : Lines} (h : l.OutputOff) : l.Safe := by
  have hoe : l.oeN = true := h
  simp [Lines.Safe, Lines.Uncontended, Lines.Unoverlapped, hoe]

/-- Whatever the lines were, the bus listens from the first event of INIT on (42_controller.md R162). -/
theorem throughout_init_listening (l : Lines) :
    (l.after (.dir .input)).Throughout Lines.Listening initEvents.tail := by
  refine throughout_of_keeps ?_ rfl
  simp only [initEvents, List.tail_cons, List.forall_mem_cons]
  exact ⟨fun _ h => h, fun _ h => h, fun _ h => h, fun _ h => h, fun _ h => h, fun _ h => h,
    List.forall_mem_nil _⟩

/-- INIT between commands leaves the lines at rest at every moment. -/
theorem throughout_initEvents_atRest (l : Lines) (hl : l.AtRest) :
    l.Throughout Lines.AtRest initEvents := by
  refine throughout_of_keeps ?_ hl
  simp only [initEvents, List.forall_mem_cons]
  exact ⟨fun _ h => h, fun _ h => ⟨rfl, h.2⟩, fun _ h => h, fun _ h => ⟨h.1, rfl⟩, fun _ h => h,
    fun _ h => h, fun _ h => h, List.forall_mem_nil _⟩

/-- At rest the direction may be switched and output-enable lowered. -/
theorem throughout_optional_safe (c : Prop) [Decidable c] {e : Event} (l : Lines)
    (he : e.Keeps Lines.AtRest) (hl : l.AtRest) :
    l.Throughout Lines.Safe (if c then [e] else []) :=
  (throughout_of_keeps (forall_mem_optional c he) hl).mono fun _ => Lines.AtRest.safe

/-- READ switches the bus with the lines at rest, and all its other events come while the bus
listens (42_controller.md R164 to R169). -/
theorem throughout_readEvents_safe (p : Params) (a : Addr) (b : Byte) (l : Lines) (hl : l.AtRest) :
    l.Throughout Lines.Safe (readEvents p l.dir a b) := by
  obtain ⟨hce, hwe⟩ := hl
  simp only [readEvents, List.append_assoc]
  rw [throughout_append, afterAll_switch_input]
  constructor
  · exact throughout_optional_safe _ l (fun _ h => h) ⟨hce, hwe⟩
  · refine Lines.Throughout.mono (P := Lines.Reading) ?_ fun _ => Lines.Reading.safe
    refine throughout_of_keeps ?_ ⟨rfl, hwe⟩
    simp only [List.forall_mem_append, List.forall_mem_cons]
    exact ⟨forall_mem_latchEvents a (fun _ _ h => h) (fun _ _ h => h) (fun _ _ h => h),
      ⟨fun _ h => h, fun _ h => h, fun _ h => h, List.forall_mem_nil _⟩,
      forall_mem_sampleEvents b (fun _ _ _ h => h),
      fun _ h => h, fun _ h => h, fun _ h => h, List.forall_mem_nil _⟩

/-- WRITE switches the bus and disables the chip's output with the lines at rest, and latches the address
and selects the chip with output-enable high (42_controller.md R172 to R175). -/
theorem throughout_writeLead_safe (p : Params) (a : Addr) (l : Lines) (hl : l.AtRest) :
    l.Throughout Lines.Safe (writeLead p l.dir a) := by
  have hrest : { l with dir := .output }.AtRest := hl
  simp only [writeLead, List.append_assoc, List.cons_append]
  rw [throughout_append, afterAll_switch_output, throughout_cons]
  refine ⟨throughout_optional_safe _ l (fun _ h => h) hl, hrest.safe, ?_⟩
  refine Lines.Throughout.mono (P := Lines.OutputOff) ?_ fun _ => Lines.OutputOff.safe
  refine throughout_of_keeps ?_ rfl
  simp only [List.nil_append, List.forall_mem_cons, List.forall_mem_append]
  exact ⟨fun _ h => h, forall_mem_latchEvents a (fun _ _ h => h) (fun _ _ h => h) (fun _ _ h => h),
    fun _ h => h, fun _ h => h, fun _ h => h, List.forall_mem_nil _⟩

/-- What no write of a data line spoils holds throughout the pulse of a WRITE (42_controller.md R176 to
R178). -/
theorem throughout_pulseBody {P : Lines → Prop} (p : Params) (v : Byte) (l : Lines) (hl : P l)
    (hdata : ∀ i x, Event.Keeps P (.pin (.d i) x)) :
    l.Throughout P (pulseBody p v) := by
  refine throughout_of_keeps ?_ hl
  simp only [pulseBody, List.forall_mem_cons, List.forall_mem_append]
  exact ⟨fun _ h => h, forall_mem_driveEvents v hdata, fun _ h => h, List.forall_mem_nil _⟩

/-- WRITE deselects the chip with output-enable high, and enables the chip's output only at rest again
(42_controller.md R179 to R181). -/
theorem throughout_writeTail_safe (p : Params) (l : Lines) (hoe : l.OutputOff) (hwe : l.weN = true) :
    l.Throughout Lines.Safe (writeTail p) := by
  rw [writeTail, throughout_append]
  constructor
  · refine (throughout_of_keeps ?_ hoe).mono fun _ => Lines.OutputOff.safe
    simp only [List.forall_mem_cons]
    exact ⟨fun _ h => h, fun _ h => h, fun _ h => h, List.forall_mem_nil _⟩
  · have hrest : { l with ceN := true }.AtRest := ⟨rfl, hwe⟩
    exact throughout_optional_safe _ _ (fun _ h => h) hrest

theorem throughout_writeEvents_safe (p : Params) (a : Addr) (v : Byte) (l : Lines) (hl : l.AtRest) :
    l.Throughout Lines.Safe (writeEvents p l.dir a v) := by
  rw [writeEvents, throughout_append, afterAll_writeLead, throughout_cons, throughout_append,
    throughout_cons, afterAll_pulseBody]
  refine ⟨throughout_writeLead_safe p a l hl, Lines.OutputOff.safe rfl, ?_, Lines.OutputOff.safe rfl,
    throughout_writeTail_safe p _ rfl rfl⟩
  refine Lines.Throughout.mono (P := Lines.OutputOff) ?_ fun _ => Lines.OutputOff.safe
  exact throughout_pulseBody p v _ rfl fun _ _ _ h => h

end Sys2Proof.Machine
end

section
/-! The three commands and programs of them, as the events they append and the lines these lead through. -/

namespace Sys2Proof.Machine

/-- From `s` the events `es` have been appended, through safe lines, and CORE is ready again in `t`, with the
lines where the events leave them. -/
structure SafeRun (s t : State) (es : List Event) : Prop where
  ready : Ready t
  trace : t.trace = s.trace ++ es
  lines : t.lines = s.lines.afterAll es
  safe : s.lines.Throughout Lines.Safe es

theorem Ready.atRest {s : State} (h : Ready s) : s.lines.AtRest := by
  obtain ⟨-, -, hce, hwe, -⟩ := h
  exact ⟨hce, hwe⟩

theorem SafeRun.refl {s : State} (h : Ready s) : SafeRun s s [] :=
  ⟨h, (List.append_nil _).symm, rfl, throughout_nil.2 h.atRest.safe⟩

theorem SafeRun.trans {s t u : State} {es fs : List Event} (h : SafeRun s t es) (k : SafeRun t u fs) :
    SafeRun s u (es ++ fs) where
  ready := k.ready
  trace := by rw [k.trace, h.trace, List.append_assoc]
  lines := by rw [k.lines, h.lines, Lines.afterAll_append]
  safe := (throughout_append es fs).2 ⟨h.safe, h.lines ▸ k.safe⟩

/-- INIT leaves CORE ready, whatever the lines were (70_reset_and_hazards.md R234). -/
theorem exec_init_ready (a : Addr) (d : Byte) (s : State) (hs : s.seq = .idle) :
    ∃ t, exec (.init a d) s = .next t ∧ Ready t ∧ t.trace = s.trace ++ initEvents ∧
      t.lines = s.lines.afterAll initEvents :=
  ⟨_, exec_init a d s hs, ⟨hs, rfl, rfl, rfl, rfl⟩, rfl, rfl⟩

theorem exec_write_trace (a : Addr) (v : Byte) (s t : State) (hs : Ready s)
    (h : exec (.write a v) s = .next t) : t.trace = s.trace ++ writeEvents s.params s.dir a v := by
  rw [exec_write a v s hs] at h
  cases h
  rfl

/-- Every READ from a ready state completes in a safe run, with a chip on the bus and without one. -/
theorem exec_read_safeRun (a : Addr) (d : Byte) (s : State) (hs : Ready s) :
    ∃ t b, exec (.read a d) s = .next t ∧ SafeRun s t (readEvents s.params s.dir a b) := by
  have hsafe (b : Byte) := throughout_readEvents_safe s.params a b s.lines hs.atRest
  have hlines (b : Byte) := afterAll_readEvents s.params a b s.lines
  have ⟨hidle, hinited, _, hwe, _⟩ := hs
  cases hp : s.params.chipPresent with
  | true =>
    exact ⟨_, _, exec_read a d s hs hp, ⟨hidle, hinited, rfl, hwe, rfl⟩, rfl, (hlines _).symm, hsafe _⟩
  | false =>
    exact ⟨_, _, exec_read_noChip a d s hs hp, ⟨hidle, hinited, rfl, hwe, rfl⟩, rfl, (hlines _).symm,
      hsafe _⟩

/-- So does every command. -/
theorem exec_command_safeRun (i : Instr) (s : State) (hi : i.isCommand = true) (hs : Ready s) :
    ∃ t es, exec i s = .next t ∧ SafeRun s t es := by
  have ⟨hidle, hinited, _, _, _⟩ := hs
  cases i with
  | init a d =>
    obtain ⟨t, ht, hready, htrace, hlines⟩ := exec_init_ready a d s hidle
    exact ⟨t, _, ht, hready, htrace, hlines,
      (throughout_initEvents_atRest s.lines hs.atRest).mono fun _ => Lines.AtRest.safe⟩
  | read a d =>
    obtain ⟨t, b, ht, hrun⟩ := exec_read_safeRun a d s hs
    exact ⟨t, _, ht, hrun⟩
  | write a v =>
    exact ⟨_, _, exec_write a v s hs, ⟨hidle, hinited, rfl, rfl, rfl⟩, rfl,
      (afterAll_writeEvents s.params a v s.lines).symm,
      throughout_writeEvents_safe s.params a v s.lines hs.atRest⟩
  | latch a d | setdir a d | drive a d | sample a d => cases hi

/-- And so does every program, command by command. -/
theorem execAll_safeRun (cs : List Instr) (s : State) (hcs : ∀ c ∈ cs, c.isCommand = true)
    (hs : Ready s) : ∃ t es, execAll cs s = .next t ∧ SafeRun s t es := by
  induction cs generalizing s with
  | nil => exact ⟨s, [], rfl, .refl hs⟩
  | cons c cs ih =>
    obtain ⟨hc, hrest⟩ := List.forall_mem_cons.1 hcs
    obtain ⟨u, es, hu, hsu⟩ := exec_command_safeRun c s hc hs
    obtain ⟨t, fs, ht, hut⟩ := ih u hrest hsu.ready
    exact ⟨t, es ++ fs, by rw [execAll, hu, andThen_next, ht], hsu.trans hut⟩

end Sys2Proof.Machine
end

section
/-! The write pulse, and the switches of the direction (70_reset_and_hazards.md R244, R249). -/

namespace Sys2Proof.Machine

/-- The chip is selected with its output off, CORE drives and the register clock is high. -/
def Lines.Pulsing (l : Lines) : Prop :=
  l.ceN = false ∧ l.oeN = true ∧ l.dir = .output ∧ l.rclk = true

/-- What R244 asks of a moment with write-enable low. -/
def Lines.PulseClean (l : Lines) : Prop := l.weN = false → l.Pulsing

theorem Lines.Pulsing.pulseClean {l : Lines} (h : l.Pulsing) : l.PulseClean := fun _ => h

theorem pulseClean_of_weHigh {l : Lines} (h : l.weN = true) : l.PulseClean := by
  intro hlow
  cases h.symm.trans hlow

/-- Where nothing writes write-enable, it stays high and no pulse begins. -/
theorem throughout_pulseClean_of_weHigh {es : List Event}
    (hes : ∀ e ∈ es, ∀ x, e ≠ .pin .weN x) (l : Lines) (hl : l.weN = true) :
    l.Throughout Lines.PulseClean es :=
  (throughout_of_keeps (P := fun l => l.weN = true)
    (fun e he m hm => (after_weN e (hes e he) m).trans hm) hl).mono fun _ => pulseClean_of_weHigh

/-- Nothing writes write-enable before the pulse of a WRITE (42_controller.md R172 to R175). -/
theorem ne_pin_weN_of_mem_writeLead (p : Params) (d : Dir) (a : Addr) :
    ∀ e ∈ writeLead p d a, ∀ x, e ≠ .pin .weN x := by
  simp only [writeLead, List.forall_mem_append, List.forall_mem_cons]
  exact ⟨⟨⟨forall_mem_optional _ nofun, nofun, nofun, List.forall_mem_nil _⟩,
    forall_mem_latchEvents a nofun nofun nofun⟩, nofun, nofun, nofun, List.forall_mem_nil _⟩

/-- Nothing writes write-enable after the pulse of a WRITE (42_controller.md R179 to R181). -/
theorem ne_pin_weN_of_mem_writeTail (p : Params) : ∀ e ∈ writeTail p, ∀ x, e ≠ .pin .weN x := by
  simp only [writeTail, List.forall_mem_append, List.forall_mem_cons]
  exact ⟨⟨nofun, nofun, nofun, List.forall_mem_nil _⟩, forall_mem_optional _ nofun⟩

/-- Write-enable is high before and after the pulse of a WRITE, and in the pulse only the data lines move
(42_controller.md R176 to R178). -/
theorem throughout_writeEvents_pulseClean (p : Params) (a : Addr) (v : Byte) (l : Lines)
    (hl : l.weN = true) : l.Throughout Lines.PulseClean (writeEvents p l.dir a v) := by
  rw [writeEvents, throughout_append, afterAll_writeLead, throughout_cons, throughout_append,
    throughout_cons, afterAll_pulseBody]
  have hbegin : Lines.Pulsing (({ l with
      dir := .output, oeN := true, rclk := true, srclk := false, ser := a.getLsbD 0, ceN := false } :
      Lines).after (.pin .weN false)) := ⟨rfl, rfl, rfl, rfl⟩
  refine ⟨throughout_pulseClean_of_weHigh (ne_pin_weN_of_mem_writeLead p l.dir a) l hl,
    pulseClean_of_weHigh hl, ?_, hbegin.pulseClean,
    throughout_pulseClean_of_weHigh (ne_pin_weN_of_mem_writeTail p) _ rfl⟩
  refine Lines.Throughout.mono (P := Lines.Pulsing) ?_ fun _ => Lines.Pulsing.pulseClean
  exact throughout_pulseBody p v _ hbegin fun _ _ _ h => h

/-- After its first event a list whose first event may be left out has only what follows that one. -/
theorem forall_mem_tail_optional {Q : Event → Prop} (c : Prop) [Decidable c] (x : Event) (es : List Event)
    (hes : ∀ e ∈ es, Q e) : ∀ e ∈ ((if c then [x] else []) ++ es).tail, Q e := by
  split
  · exact hes
  · exact fun e he => hes e (List.mem_of_mem_tail he)

theorem ne_dir_of_mem_tail_readEvents (p : Params) (b : Dir) (a : Addr) (v : Byte) :
    ∀ e ∈ (readEvents p b a v).tail, ∀ d, e ≠ .dir d := by
  simp only [readEvents, List.append_assoc]
  refine forall_mem_tail_optional _ _ _ ?_
  simp only [List.forall_mem_append, List.forall_mem_cons]
  exact ⟨forall_mem_latchEvents a nofun nofun nofun, ⟨nofun, nofun, nofun, List.forall_mem_nil _⟩,
    forall_mem_sampleEvents v nofun, nofun, nofun, nofun, List.forall_mem_nil _⟩

theorem ne_dir_of_mem_tail_writeEvents (p : Params) (b : Dir) (a : Addr) (v : Byte) :
    ∀ e ∈ (writeEvents p b a v).tail, ∀ d, e ≠ .dir d := by
  simp only [writeEvents, writeLead, writeTail, pulseBody, List.append_assoc]
  refine forall_mem_tail_optional _ _ _ ?_
  simp only [List.forall_mem_append, List.forall_mem_cons]
  exact ⟨⟨nofun, nofun, List.forall_mem_nil _⟩, forall_mem_latchEvents a nofun nofun nofun,
    ⟨nofun, nofun, nofun, List.forall_mem_nil _⟩, nofun,
    ⟨nofun, forall_mem_driveEvents v nofun, nofun, List.forall_mem_nil _⟩, nofun,
    ⟨nofun, nofun, nofun, List.forall_mem_nil _⟩, forall_mem_optional _ nofun⟩

/-- The events of a command from a ready state switch the direction at their beginning or not at all
(70_reset_and_hazards.md R249). -/
theorem exec_command_switches_first (i : Instr) (s t : State) (hi : i.isCommand = true) (hs : Ready s)
    (h : exec i s = .next t) :
    ∃ es, t.trace = s.trace ++ es ∧ ∀ e ∈ es.tail, ∀ d, e ≠ .dir d := by
  cases i with
  | init a d =>
    obtain rfl := exec_init_eq_next a d s t h
    refine ⟨_, rfl, ?_⟩
    simp only [initEvents, List.tail_cons, List.forall_mem_cons]
    exact ⟨nofun, nofun, nofun, nofun, nofun, nofun, List.forall_mem_nil _⟩
  | read a d =>
    obtain ⟨b, htrace⟩ := exec_read_trace a d s t hs h
    exact ⟨_, htrace, ne_dir_of_mem_tail_readEvents _ _ _ _⟩
  | write a v =>
    exact ⟨_, exec_write_trace a v s t hs h, ne_dir_of_mem_tail_writeEvents _ _ _ _⟩
  | latch a d | setdir a d | drive a d | sample a d => cases hi

/-- What only the first event can be has nothing before it. -/
theorem eq_nil_of_append_cons {es p q : List Event} {x : Event} (hes : ∀ e ∈ es.tail, e ≠ x)
    (h : es = p ++ x :: q) : p = [] := by
  cases p with
  | nil => rfl
  | cons e p =>
    subst h
    exact absurd rfl (hes x (List.mem_append_right p (List.mem_cons_self ..)))

end Sys2Proof.Machine
end

section
/-! The obligations of 70_reset_and_hazards.md. -/

namespace Sys2Proof.Proofs

open Sys2Proof.Machine

/-- Settles O49: from the first event of INIT on the bus listens, and INIT leaves CORE ready for commands
that are all safe (`execAll_safeRun`). -/
theorem runsNeverContend : Obligations.RunsNeverContend := by
  unfold Obligations.RunsNeverContend
  intro a d cs s hidle hcs
  obtain ⟨u, hu, hready, htrace, hlines⟩ := exec_init_ready a d s hidle
  obtain ⟨t, es, ht, hrun⟩ := execAll_safeRun cs u hcs hready
  refine ⟨t, initEvents ++ es, by rw [execAll, hu, andThen_next, ht], ?_, ?_⟩
  · rw [hrun.trace, htrace, List.append_assoc]
  · have hinit : (s.lines.after (.dir .input)).Throughout Lines.Uncontended initEvents.tail :=
      (throughout_init_listening s.lines).mono fun _ => Lines.Listening.uncontended
    have hprogram : (s.lines.afterAll initEvents).Throughout Lines.Uncontended es :=
      hlines ▸ hrun.safe.mono fun _ => And.left
    exact (throughout_append initEvents.tail es).2 ⟨hinit, hprogram⟩

/-- Settles O50, by induction on the program (`execAll_safeRun`): READ reads with write-enable high, and
WRITE raises output-enable before its pulse and lowers it only at rest. -/
theorem runsNeverOverlap : Obligations.RunsNeverOverlap := by
  unfold Obligations.RunsNeverOverlap
  intro cs s hs hcs
  obtain ⟨t, es, ht, hrun⟩ := execAll_safeRun cs s hcs hs
  exact ⟨t, es, ht, hrun.trace, hrun.safe.mono fun _ => And.right⟩

/-- Settles O48: the waits among the events each command appends. -/
theorem leastDurations : Obligations.LeastDurations := by
  unfold Obligations.LeastDurations
  intro a d s t es htrace
  have hevents (fs : List Event) (h : t.trace = s.trace ++ fs) : es = fs :=
    List.append_cancel_left (htrace.symm.trans h)
  refine ⟨fun h => ?_, fun hs h => ?_, fun hs h => ?_⟩
  · rw [hevents initEvents (by rw [exec_init_eq_next a d s t h])]
    rfl
  · obtain ⟨b, hread⟩ := exec_read_trace a d s t hs h
    rw [hevents _ hread, leastTime_readEvents]
  · rw [hevents _ (exec_write_trace a d s t hs h), leastTime_writeEvents]

/-- Settles O51: the events of WRITE are those before its pulse, the pulse and those after it, and only the
two edges of the pulse write write-enable. -/
theorem writePulseIsClean : Obligations.WritePulseIsClean := by
  unfold Obligations.WritePulseIsClean
  intro a v s t es hs h htrace
  obtain rfl : es = writeEvents s.params s.dir a v :=
    List.append_cancel_left (htrace.symm.trans (exec_write_trace a v s t hs h))
  have ⟨_, _, _, hwe, _⟩ := hs
  refine ⟨⟨writeLead s.params s.dir a, writeTail s.params, ?_, fun x hx => ?_, fun x hx => ?_⟩,
    throughout_writeEvents_pulseClean s.params a v s.lines hwe⟩
  · simp [writeEvents, pulseBody]
  · exact ne_pin_weN_of_mem_writeLead _ _ _ _ hx x rfl
  · exact ne_pin_weN_of_mem_writeTail _ _ hx x rfl

/-- Settles O52: a command switches the direction by its first event, and before that the chip is deselected
as CORE was ready. -/
theorem directionSwitchesOnlyDeselected : Obligations.DirectionSwitchesOnlyDeselected := by
  unfold Obligations.DirectionSwitchesOnlyDeselected
  intro i s t p q d hi hs h htrace
  obtain ⟨es, hes, hfirst⟩ := exec_command_switches_first i s t hi hs h
  obtain rfl : p = [] :=
    eq_nil_of_append_cons (fun e he => hfirst e he d) (List.append_cancel_left (hes.symm.trans htrace))
  exact hs.atRest.1

/-- Settles O15: both stop at their guard. -/
theorem commandsBeforeInitAreRefused : Obligations.CommandsBeforeInitAreRefused := by
  unfold Obligations.CommandsBeforeInitAreRefused
  intro a d s hs
  exact ⟨exec_command_refused_before_init (.read a d) s rfl hs (by simp [Instr.op]),
    exec_command_refused_before_init (.write a d) s rfl hs (by simp [Instr.op])⟩

end Sys2Proof.Proofs
end
